-- ==== Sys2Proof/Word.lean ====
section
/-! DEFINITION. The word types of CDSEQ (spec/00_scope.md section 6, spec/10_state.md rule R20): what the spec
treats as bits. -/

namespace Sys2Proof

/-- A data byte of one byte operation, a register address of the sensor, a character of a report (u8). -/
abbrev Byte := BitVec 8

/-- The 16-bit pattern of an AxisSample as a frame or prior register stores it (R21, R24). -/
abbrev Sample := BitVec 16

/-- A command word, and a word of the host's register port (R38, R90). -/
abbrev Word := BitVec 32

/-- A slave address of the two-wire bus (u7, R70). -/
abbrev SlaveAddr := BitVec 7

/-- An opaque delay token (u32, R8, R170): the model gives it no unit. -/
abbrev Token := BitVec 32

end Sys2Proof
end

