-- ==== Sys2Proof/Syntax.lean ====
section
/-! DEFINITION. The eight operations of CDSEQ, one constructor per row of spec/opcode_table.json
(spec/30_encoding.md rules R91 to R95). The fields are the operands the word carries (R98: as they stand). -/

namespace Sys2Proof

/-- A command of the CDSEQ command set, version 1. -/
inductive Instr where
  /-- WRB (R124): slave address, byte to transmit, flags `S` (START) and `P` (STOP). -/
  | wrb (sa : SlaveAddr) (data : Byte) (start stop : Bool)
  /-- RDB (R125): slave address, flags `S` (START), `A` (ACK) and `P` (STOP). -/
  | rdb (sa : SlaveAddr) (start ack stop : Bool)
  /-- FSTOP (R126). -/
  | fstop
  /-- INIT (R140). -/
  | init
  /-- RDAX (R142): destination number `D` as the three bits of the word (R93), register address `REG`. -/
  | rdax (d : BitVec 3) (reg : Byte)
  /-- CLSFY (R180). -/
  | clsfy
  /-- CYCLE (R160). -/
  | cycle
  /-- RUN (R167). -/
  | run
deriving DecidableEq, Repr

end Sys2Proof
end

