-- ==== Sys2Proof/WellFormed.lean ====
section
/-! DEFINITION. Which terms of Instr a command word can stand for (spec/30_encoding.md rules R93, R97). -/

namespace Sys2Proof

/-- The only operand value a field admits and the command set does not: `D` of RDAX is at most 5
(R93; R97: "`OP` = 3 with `D` = 6 or 7" is illegal). -/
def Instr.wellFormed : Instr → Bool
  | .wrb _ _ _ _ => true
  | .rdb _ _ _ _ => true
  | .fstop => true
  | .init => true
  | .rdax d _ => decide (d ≤ 5#3)
  | .clsfy => true
  | .cycle => true
  | .run => true

end Sys2Proof
end

