-- ==== Sys2Proof/Decode.lean ====
section
/-! DEFINITION. Decoding and encoding of command words (spec/30_encoding.md rules R90 to R98, R103).
Decoding is total on 32-bit words and names the first test of R96 that fails; encoding is written from the
formats N, T and A of R91 to R93. -/

namespace Sys2Proof

/-- Which test of R96 refused the word, in the order the tests are made. -/
inductive DecodeError where
  /-- Test (1): `OP` is 0 or 7 to 15. -/
  | reservedOpcode
  /-- Test (2): a must-be-zero bit of the format of this `OP` is 1. -/
  | nonzeroReservedBits
  /-- Test (3): `OP` = 1 and the word matches none of WRB, RDB, FSTOP. -/
  | noTransferForm
  /-- Test (4): `OP` = 3 and `D` is 6 or 7. -/
  | noSuchAxis
deriving DecidableEq, Repr

namespace Field

/-- `OP` = `W[31:28]`, in every format (R90). -/
def op (w : Word) : BitVec 4 := w.extractLsb' 28 4
/-- `W[27:0]`, all must-be-zero in Format N (R91). -/
def operandN (w : Word) : BitVec 28 := w.extractLsb' 0 28
/-- `ACK` = `W[27]` (R92). -/
def ack (w : Word) : Bool := w.getLsbD 27
/-- `STOP` = `W[26]` (R92). -/
def stop (w : Word) : Bool := w.getLsbD 26
/-- `START` = `W[25]` (R92). -/
def start (w : Word) : Bool := w.getLsbD 25
/-- `RUN` = `W[24]` (R92). -/
def run (w : Word) : Bool := w.getLsbD 24
/-- `SA` = `W[23:17]` (R92). -/
def sa (w : Word) : SlaveAddr := w.extractLsb' 17 7
/-- `DIR` = `W[16]`: 0 write, 1 read (R92). -/
def dir (w : Word) : Bool := w.getLsbD 16
/-- `DATA` (R92) and `REG` (R93) = `W[15:8]`. -/
def data (w : Word) : Byte := w.extractLsb' 8 8
/-- `W[7:0]`, must be zero in Formats T and A (R92, R93). -/
def low (w : Word) : Byte := w.extractLsb' 0 8
/-- `W[27:19]`, must be zero in Format A (R93). -/
def highA (w : Word) : BitVec 9 := w.extractLsb' 19 9
/-- `D` = `W[18:16]` (R93). -/
def axis (w : Word) : BitVec 3 := w.extractLsb' 16 3

end Field

/-- A Format N word: `i` when every operand bit is zero (R91, R96 test 2). -/
def decodeN (i : Instr) (w : Word) : Except DecodeError Instr :=
  if Field.operandN w = 0 then .ok i else .error .nonzeroReservedBits

/-- A Format T word (R92, R95, R103): tests 2 and 3 of R96. -/
def decodeT (w : Word) : Except DecodeError Instr :=
  if Field.low w ≠ 0 then .error .nonzeroReservedBits
  else if Field.run w && !Field.dir w && !Field.ack w then
    .ok (.wrb (Field.sa w) (Field.data w) (Field.start w) (Field.stop w))
  else if Field.run w && Field.dir w && Field.data w == 0 then
    .ok (.rdb (Field.sa w) (Field.start w) (Field.ack w) (Field.stop w))
  else if w = 0x14000000 then .ok .fstop
  else .error .noTransferForm

/-- A Format A word (R93): tests 2 and 4 of R96. -/
def decodeA (w : Word) : Except DecodeError Instr :=
  if Field.highA w ≠ 0 ∨ Field.low w ≠ 0 then .error .nonzeroReservedBits
  else if Field.axis w > 5 then .error .noSuchAxis
  else .ok (.rdax (Field.axis w) (Field.data w))

/-- `Decode(W)` of 30_encoding.md section 4 (R96): reads nothing but the word. -/
def decode (w : Word) : Except DecodeError Instr :=
  if Field.op w = 1 then decodeT w
  else if Field.op w = 2 then decodeN .init w
  else if Field.op w = 3 then decodeA w
  else if Field.op w = 4 then decodeN .clsfy w
  else if Field.op w = 5 then decodeN .cycle w
  else if Field.op w = 6 then decodeN .run w
  else .error .reservedOpcode

/-- One bit of a word being written. -/
abbrev bit (b : Bool) : BitVec 1 := BitVec.ofBool b

/-- A Format N word (R91); `{a, b}` of the spec is `a ++ b`. -/
def formatN (op : BitVec 4) : Word := op ++ 0#28

/-- A Format T word (R92): `OP` = 1, `CTL` = `ACK STOP START RUN`, `SA`, `DIR`, `DATA`, zero. -/
def formatT (ack stop start run : Bool) (sa : SlaveAddr) (dir : Bool) (data : Byte) : Word :=
  1#4 ++ bit ack ++ bit stop ++ bit start ++ bit run ++ sa ++ bit dir ++ data ++ 0#8

/-- A Format A word (R93): `OP` = 3, zero, `D`, `REG`, zero. -/
def formatA (d : BitVec 3) (reg : Byte) : Word := 3#4 ++ 0#9 ++ d ++ reg ++ 0#8

/-- The word of an instruction (R94, R95). -/
def encode : Instr → Word
  | .wrb sa data start stop => formatT false stop start true sa false data
  | .rdb sa start ack stop => formatT ack stop start true sa true 0
  | .fstop => formatT false true false false 0 false 0
  | .init => formatN 2
  | .rdax d reg => formatA d reg
  | .clsfy => formatN 4
  | .cycle => formatN 5
  | .run => formatN 6

/-- The instruction the decoder reads from an instruction whose bits are `w`, numbered as the opcode table numbers
them; bits above `nbits` are 0. Every command is one 32-bit word (R90): a longer number is no command word. -/
def decodeTableWord (nbits w : Nat) : Option Instr :=
  if w % 2 ^ nbits < 2 ^ 32 then
    match decode (BitVec.ofNat 32 (w % 2 ^ nbits)) with
    | .ok i => some i
    | .error _ => none
  else none

end Sys2Proof
end

