-- ==== Sys2Proof/Config.lean ====
section
/-! DEFINITION. What an implementation fixes and what the environment answers: the parameter table of
spec/00_scope.md rule R8, the request and the answer of one byte operation (spec/20_memory.md rule R66), and the
two free values of the model. -/

namespace Sys2Proof

/-- The impact policy `POLICY` (R8): 0 NONE, 1 ABS, 2 DELTA. The value 3 "is refused: a model takes no configuration
with POLICY = 3"; this type has no term for it. -/
inductive Policy where
  | none
  | abs
  | delta
deriving DecidableEq, Repr

/-- `REPORT_SET` (R8): 0 minimal (X, Y, Z), 1 full (six fields). -/
inductive ReportSet where
  | minimal
  | full
deriving DecidableEq, Repr

/-- The parameters of R8: constant from reset to the next reset, written by no command. -/
structure Params where
  slaveAddr  : SlaveAddr
  pwrReg     : Byte
  wakeVal    : Byte
  axisBase   : Byte
  /-- `G`: documentation only, read by no rule. -/
  gravity    : BitVec 16
  bandLo     : BitVec 16
  bandHi     : BitVec 16
  impactThr  : BitVec 16
  deltaThr   : BitVec 16
  policy     : Policy
  orientEn   : Bool
  reportSet  : ReportSet
  initFatal  : Bool
  cycleDelay : Token
  blinkCount : BitVec 8
  blinkDelay : Token
deriving DecidableEq, Repr

/-- Example set EX1 of R8's table. DESIGN CHOICE (log entry 3): the parameters `State.reset` carries. -/
def Params.ex1 : Params where
  slaveAddr  := 0x68
  pwrReg     := 0x6B
  wakeVal    := 0x00
  axisBase   := 0x3B
  gravity    := 16384
  bandLo     := 13107
  bandHi     := 18022
  impactThr  := 29491
  deltaThr   := 8000
  policy     := .abs
  orientEn   := true
  reportSet  := .full
  initFatal  := true
  cycleDelay := 1000
  blinkCount := 3
  blinkDelay := 100

/-- The direction of a byte operation (R26, R92): 0 write, 1 read. -/
inductive Dir where
  | write
  | read
deriving DecidableEq, Repr

/-- The fields of the event `BusReq(sa, dir, data, start, stop, ack)` (R40): one byte operation as issued. -/
structure BusReq where
  sa    : SlaveAddr
  dir   : Dir
  data  : Byte
  start : Bool
  stop  : Bool
  ack   : Bool
deriving DecidableEq, Repr

/-- What `BusOracle(req)` returns (R66): `Never`, or `Complete(nack, arb, rdata)`. -/
inductive BusAnswer where
  | never
  | complete (nack arb : Bool) (rdata : Byte)
deriving DecidableEq, Repr, Inhabited

/-- Free value (log entry 1): the answer of the unconstrained oracle (R67: "for any request and any history it may
give any of its answers") to the `n`-th request of a run, once no scripted answer is left. No body: nothing can be
proved of it. -/
opaque Config.busOracle : Nat → BusReq → BusAnswer

/-- Free value (log entry 9): where the register pointer of the optional sensor (R68) goes after address 0xFF, which
"is not in the source" (R62). -/
opaque Config.pointerAfterTop : Byte

end Sys2Proof
end

