-- ==== Sys2Proof/Machine/State.lean ====
section
/-! DEFINITION. The state of CDSEQ (spec/10_state.md rule R20) as plain data, the environment's inputs the model
carries beside it, and the state after reset (rules R43, R240, R241). -/

namespace Sys2Proof.Machine

/-- The six axes in the fixed order of R21 (0 accelX to 5 gyroZ): the index of `F` and of `DEG`, the field `AXI`. -/
inductive Axis where
  | accelX | accelY | accelZ | gyroX | gyroY | gyroZ
deriving DecidableEq, Repr

/-- The three accelerometer axes, indices 0 to 2 (R24, R32): the index of `P`, of `IMPACT` and of the blink lamp. -/
inductive Accel where
  | x | y | z
deriving DecidableEq, Repr

/-- Six like things, one for each axis (R21). -/
structure PerAxis (α : Type) where
  accelX : α
  accelY : α
  accelZ : α
  gyroX  : α
  gyroY  : α
  gyroZ  : α
deriving DecidableEq, Repr

/-- Three like things, one for each accelerometer axis (R24). -/
structure Triple (α : Type) where
  x : α
  y : α
  z : α
deriving DecidableEq, Repr

/-- `STATUS` (R27): its named flags. Bits 31 to 19 read as zero and are not held. -/
structure Status where
  busy     : Bool
  xbusy    : Bool
  err      : Bool
  nack     : Bool
  arblst   : Bool
  held     : Bool
  /-- `HDIR`: 0 write, 1 read. -/
  hdir     : Dir
  fail     : Bool
  initok   : Bool
  initfail : Bool
  ill      : Bool
  seqf     : Bool
  halt     : Bool
  deg      : PerAxis Bool
deriving DecidableEq, Repr

/-- `ORIENT` (R32): codes 0 Idle, 1 to 3 an axis dominant, 4 NoDominant. Codes 5 to 7 are never produced. -/
inductive Orient where
  | idle | axisX | axisY | axisZ | noDominant
deriving DecidableEq, Repr

/-- `LAMP` (R32): codes 0 off, 1 X, 2 Y, 3 Z. -/
inductive Lamp where
  | off | x | y | z
deriving DecidableEq, Repr

/-- `CLASS` (R32). Bits 31 to 8 read as zero and are not held. -/
structure Classes where
  orient : Orient
  impact : Triple Bool
  lamp   : Lamp
deriving DecidableEq, Repr

/-- `SEQ.TOP` (R33): the opcode of the command being executed, or 0 when idle. -/
inductive Top where
  | none | xfer | init | rdax | clsfy | cycle | run
deriving DecidableEq, Repr

/-- `SEQ.STEP` (R33): the index, 0 to 2, of the current byte operation within its driver sequence. -/
inductive OpIndex where
  | op0 | op1 | op2
deriving DecidableEq, Repr

/-- `SEQ.PHASE` (R33): the engine's phase, codes 0 to 4. -/
inductive Phase where
  | idle | issue | wait | check | abort
deriving DecidableEq, Repr

/-- `SEQ` (R33). Bits 31 to 14 read as zero and are not held. -/
structure Seq where
  top   : Top
  step  : OpIndex
  axi   : Axis
  phase : Phase
deriving DecidableEq, Repr

/-- The one notice of the reporting collaborator besides the report (R40). -/
inductive Notice where
  | initFailed
deriving DecidableEq, Repr

/-- The alphabet of the event history (R40). -/
inductive Event where
  | busReq (req : BusReq)
  | busResp (nack arb : Bool) (rdata : Byte)
  | busStop (forced : Bool)
  | lamp (code : Lamp)
  | delay (token : Token)
  | report (bytes : List Byte)
  | log (notice : Notice)
deriving DecidableEq, Repr

/-- The cells of the optional sensor's register space that differ from what an unlisted address reads as, addresses
strictly rising (log entry 10). CDSEQ itself has no memory (R60). -/
abbrev Memory := List Host.Cell

/-- The optional sensor inside the oracle (R68; R41: "a model that includes a sensor puts the pointer in the
oracle"): its slave address, its register space, its 8-bit register pointer, and whether the open transaction was
addressed to it (R68 (1): a byte operation without a start "joins the open transaction"). -/
structure Sensor where
  addr      : SlaveAddr
  cells     : Memory
  ptr       : Byte
  addressed : Bool
deriving DecidableEq, Repr

/-- The environment that answers byte operations (R66, R67), the MODEL's own field (log entry 1): the scripted
answers still to come, the number of requests answered so far (the counter of the free value), and the optional
sensor. -/
structure Bus where
  script : List BusAnswer
  asked  : Nat
  sensor : Option Sensor
deriving DecidableEq, Repr

/-- What the host does inside a command, while CDSEQ executes it (R36): "at any time" holds of reset (R240) and of
register reads (R38); a write, a command word among them, is lost then (R37, R39). -/
inductive Midway where
  | reset
  | read (n : BitVec 8)
  | write (n : BitVec 8) (w : Word)
deriving DecidableEq, Repr

/-- What the host does (R36), one action for each step (log entry 4). A write to number 0 presents a command word (R37,
R39). With `wait` the host does nothing while CDSEQ takes one step of its own. With `during` it presents a word, or
none, and acts inside the step that follows: each act comes so many pseudocode lines after the one before it, the first
so many lines after the command's acceptance or the start of a cycle (log entry 2). -/
inductive HostAction where
  | reset
  | write (n : BitVec 8) (w : Word)
  | read (n : BitVec 8)
  | wait
  | during (word : Option Word) (acts : List (Nat × Midway))
deriving DecidableEq, Repr

/-- The state. Fields `f` to `events` are the registers and the event history of R20, exactly; `params` are the
constant inputs of R8; `bus`, `host` and `portOut` are the model's own: the environment's answers, the host's pending
actions, and the words the register port has returned, oldest first. -/
structure State where
  /-- `F[0..5]`, the frame (R21). -/
  f       : PerAxis Sample
  /-- `P[0..2]`, the prior frame (R24). -/
  p       : Triple Sample
  /-- `DR`, the data byte of the last byte operation (R25). -/
  dr      : Byte
  /-- `XD`, the descriptor of the last byte operation issued (R26). -/
  xd      : BitVec 20
  /-- `STATUS` (R27). -/
  status  : Status
  /-- `CLASS` (R32). -/
  cls     : Classes
  /-- `SEQ` (R33). -/
  seq     : Seq
  /-- The event history, oldest first (R40). -/
  events  : List Event
  params  : Params
  bus     : Bus
  host    : List HostAction
  portOut : List Word
deriving DecidableEq, Repr

/-- How a procedure of 00_scope.md section 7 ends: it returns a value, or it never returns because the oracle
answered `Never` (R122). -/
inductive Proc (α : Type) where
  | ret (a : α) (s : State)
  | never (s : State)
deriving Repr

/-- What `Xfer` returns (R120): `Ok(byte)` or `Fail`. -/
inductive Reply where
  | ok (byte : Byte)
  | fail
deriving DecidableEq, Repr

/-- What `Init` and `RdAx` return (R141, R144): `Ok` or `Fail`. -/
inductive Verdict where
  | ok
  | fail
deriving DecidableEq, Repr

/-- Reasons to stop with a fault: there is none. CDSEQ "has no trap mechanism" and every abnormal condition is a next
state with its own flag (R210); a hung or halted machine keeps its state (R34, log entry 6). Safe and unsafe do not
arise: nobody can raise a fault. -/
inductive Fault : Type
deriving DecidableEq, Repr

/-- Reasons to refuse an instruction. -/
inductive Refusal where
  /-- Raised by an arm of `exec` whose instruction has no meaning yet; no arm raises it. Safe. -/
  | notModelled (mnemonic : String)
deriving DecidableEq, Repr

/-- Every register of R20 at its reset value, and the event history empty (R43, R241); the parameters, the bus, the
host's pending actions and the words the port has returned are given (R241: "the parameters are not registers and are not touched
by reset"; R242: reset "leaves the environment where it was"). -/
def State.resetWith (params : Params) (bus : Bus) (host : List HostAction) (portOut : List Word) : State where
  f       := ⟨0, 0, 0, 0, 0, 0⟩
  p       := ⟨0, 0, 0⟩
  dr      := 0
  xd      := 0
  status  :=
    { busy := false, xbusy := false, err := false, nack := false, arblst := false, held := false, hdir := .write
      fail := false, initok := false, initfail := false, ill := false, seqf := false, halt := false
      deg := ⟨false, false, false, false, false, false⟩ }
  cls     := { orient := .idle, impact := ⟨false, false, false⟩, lamp := .off }
  seq     := { top := .none, step := .op0, axi := .accelX, phase := .idle }
  events  := []
  params  := params
  bus     := bus
  host    := host
  portOut := portOut

/-- The machine right after reset. DESIGN CHOICE (log entries 1, 3, 4, 5): parameters EX1, no scripted answer and no
sensor, no pending host action, no word returned. -/
def State.reset : State :=
  State.resetWith Params.ex1 { script := [], asked := 0, sensor := none } [] []

end Sys2Proof.Machine
end

