-- ==== Sys2Proof/Machine/Operands.lean ====
section
/-! DEFINITION. Operand forms: axis numbers and indexed access to the register files (spec/10_state.md rules R21,
R24), the descriptor layout (R26), the sample unpacker (spec/41_sensor_driver.md rule R143), the axis address
(spec/20_memory.md rule R62) and the exact arithmetic of the classifier (spec/43_classifier.md rules R182, R194). -/

namespace Sys2Proof

/-! ### The descriptor -/

/-- The direction bit (R26): 0 write, 1 read. -/
def Dir.toBit : Dir → BitVec 1
  | .write => 0
  | .read => 1

/-- The layout of `XD` (R26): `{ack, stop, start, 1, sa, dir, wdata}`. -/
def BusReq.descriptor (r : BusReq) : BitVec 20 :=
  BitVec.ofBool r.ack ++ BitVec.ofBool r.stop ++ BitVec.ofBool r.start ++ 1#1 ++ r.sa ++ r.dir.toBit ++ r.data

/-- The request of one byte operation (R120): `wdata <- (if dir = 0 then data else 0)`. -/
def BusReq.of (sa : SlaveAddr) (dir : Dir) (data : Byte) (start stop ack : Bool) : BusReq where
  sa    := sa
  dir   := dir
  data  := match dir with | .write => data | .read => 0
  start := start
  stop  := stop
  ack   := ack

end Sys2Proof

namespace Sys2Proof.Machine

/-! ### Axis numbers -/

/-- The axes in the order a cycle reads them (R161). -/
def Axis.all : List Axis := [.accelX, .accelY, .accelZ, .gyroX, .gyroY, .gyroZ]

/-- The number of an axis, 0 to 5 (R21), as `SEQ.AXI` shows it. -/
def Axis.number : Axis → BitVec 3
  | .accelX => 0
  | .accelY => 1
  | .accelZ => 2
  | .gyroX => 3
  | .gyroY => 4
  | .gyroZ => 5

/-- The axis a field `D` names; 6 and 7 name none (R93). -/
def Axis.ofNumber (d : BitVec 3) : Option Axis :=
  match d.toNat with
  | 0 => some .accelX
  | 1 => some .accelY
  | 2 => some .accelZ
  | 3 => some .gyroX
  | 4 => some .gyroY
  | 5 => some .gyroZ
  | _ => none

/-- The accelerometer axes in the order X, Y, Z (R190). -/
def Accel.all : List Accel := [.x, .y, .z]

/-- The lamp mapped to an accelerometer axis: code i + 1 (R190). -/
def Accel.lamp : Accel → Lamp
  | .x => .x
  | .y => .y
  | .z => .z

/-! ### Indexed access -/

/-- `r[i]`. -/
def PerAxis.get {α : Type} (r : PerAxis α) : Axis → α
  | .accelX => r.accelX
  | .accelY => r.accelY
  | .accelZ => r.accelZ
  | .gyroX => r.gyroX
  | .gyroY => r.gyroY
  | .gyroZ => r.gyroZ

/-- `r[i] <- v`. -/
def PerAxis.set {α : Type} (r : PerAxis α) (i : Axis) (v : α) : PerAxis α :=
  match i with
  | .accelX => { r with accelX := v }
  | .accelY => { r with accelY := v }
  | .accelZ => { r with accelZ := v }
  | .gyroX => { r with gyroX := v }
  | .gyroY => { r with gyroY := v }
  | .gyroZ => { r with gyroZ := v }

/-- `r[i]` for i = 0, 1, 2. -/
def Triple.get {α : Type} (r : Triple α) : Accel → α
  | .x => r.x
  | .y => r.y
  | .z => r.z

/-- `r[i] <- v` for i = 0, 1, 2. -/
def Triple.set {α : Type} (r : Triple α) (i : Accel) (v : α) : Triple α :=
  match i with
  | .x => { r with x := v }
  | .y => { r with y := v }
  | .z => { r with z := v }

/-- The accelerometer triple `F[0..2]` of a frame (R24). -/
def PerAxis.accel {α : Type} (r : PerAxis α) : Triple α := ⟨r.accelX, r.accelY, r.accelZ⟩

/-! ### Samples and addresses -/

/-- `{hi, lo}`, the pattern `Unpack` stores (R143): the byte read first is the more significant. -/
def unpack (hi lo : Byte) : Sample := hi ++ lo

/-- The register address RDAX number `i` of a cycle transmits: `(AXIS_BASE + 2*i) mod 256` (R62). -/
def axisAddr (params : Params) (i : Axis) : Byte :=
  BitVec.ofNat 8 (params.axisBase.toNat + 2 * i.number.toNat)

/-- `m_i = abs(s16(F[i]))`, exact, 0 to 32768 (R182). -/
def magnitude (v : Sample) : Nat := v.toInt.natAbs

/-- `abs(s16(F[i]) - s16(P[i]))`, exact, 0 to 65535 (R188, R194). -/
def deltaMagnitude (v prior : Sample) : Nat := (v.toInt - prior.toInt).natAbs

/-! ### Decimal text (42_sampling_cycle.md rules R165, R166); characters are ASCII codes, one byte each -/

/-- The ASCII code of a character, one byte (R165, log entry 17). -/
def ascii (c : Char) : Byte := BitVec.ofNat 8 c.toNat

/-- The byte of a decimal digit below 10. -/
def digit (n : Nat) : Byte := BitVec.ofNat 8 ('0'.toNat + n)

/-- The decimal digits of `n`, most significant first, no leading zero, `0` for 0; `fuel` bounds the number of
digits after the first. -/
def digits : Nat → Nat → List Byte
  | 0, n => [digit (n % 10)]
  | fuel + 1, n => if n < 10 then [digit n] else digits fuel (n / 10) ++ [digit (n % 10)]

/-- `Dec(v)` for an integer in -32768 to 32767 (R166): at most five digits, a minus sign when negative. -/
def dec (v : Int) : List Byte :=
  if v < 0 then ascii '-' :: digits 4 v.natAbs else digits 4 v.natAbs

end Sys2Proof.Machine
end

