-- ==== Sys2Proof/Machine/Flags.lean ====
section
/-! DEFINITION. Flag computations: the words of STATUS, CLASS and SEQ by their layouts (spec/10_state.md rules R27,
R32, R33), the flag updates of one byte operation (spec/40_bus_engine.md rule R120), and the conditions the
classifier evaluates (spec/43_classifier.md rules R184, R186 to R188, R191). -/

namespace Sys2Proof.Machine

/-! ### Layouts -/

/-- `STATUS` as a word (R27). -/
def Status.toWord (t : Status) : Word :=
  0#13 ++ BitVec.ofBool t.deg.gyroZ ++ BitVec.ofBool t.deg.gyroY ++ BitVec.ofBool t.deg.gyroX
    ++ BitVec.ofBool t.deg.accelZ ++ BitVec.ofBool t.deg.accelY ++ BitVec.ofBool t.deg.accelX
    ++ BitVec.ofBool t.halt ++ BitVec.ofBool t.seqf ++ BitVec.ofBool t.ill ++ BitVec.ofBool t.initfail
    ++ BitVec.ofBool t.initok ++ BitVec.ofBool t.fail ++ t.hdir.toBit ++ BitVec.ofBool t.held
    ++ BitVec.ofBool t.arblst ++ BitVec.ofBool t.nack ++ BitVec.ofBool t.err ++ BitVec.ofBool t.xbusy
    ++ BitVec.ofBool t.busy

/-- The code of `ORIENT` (R32). -/
def Orient.code : Orient → BitVec 3
  | .idle => 0
  | .axisX => 1
  | .axisY => 2
  | .axisZ => 3
  | .noDominant => 4

/-- The code of `LAMP` (R32). -/
def Lamp.code : Lamp → BitVec 2
  | .off => 0
  | .x => 1
  | .y => 2
  | .z => 3

/-- `CLASS` as a word (R32). -/
def Classes.toWord (c : Classes) : Word :=
  0#24 ++ c.lamp.code ++ BitVec.ofBool c.impact.z ++ BitVec.ofBool c.impact.y ++ BitVec.ofBool c.impact.x
    ++ c.orient.code

/-- The code of `TOP`: the opcode (R33). -/
def Top.code : Top → BitVec 4
  | .none => 0
  | .xfer => 1
  | .init => 2
  | .rdax => 3
  | .clsfy => 4
  | .cycle => 5
  | .run => 6

/-- The code of `STEP` (R33). -/
def OpIndex.code : OpIndex → BitVec 4
  | .op0 => 0
  | .op1 => 1
  | .op2 => 2

/-- The code of `PHASE` (R33). -/
def Phase.code : Phase → BitVec 3
  | .idle => 0
  | .issue => 1
  | .wait => 2
  | .check => 3
  | .abort => 4

/-- `SEQ` as a word (R33). -/
def Seq.toWord (q : Seq) : Word :=
  0#18 ++ q.phase.code ++ q.axi.number ++ q.step.code ++ q.top.code

/-! ### The flags of one byte operation -/

/-- The continuation check (R121): a byte operation is legal when it carries a start, or when a transaction is open in
its direction. -/
def Status.mayTransfer (t : Status) (dir : Dir) (start : Bool) : Bool :=
  start || (t.held && t.hdir == dir)

/-- `ERR <- 0 ; NACK <- 0 ; ARBLST <- 0` (R120). -/
def Status.errorsCleared (t : Status) : Status := { t with err := false, nack := false, arblst := false }

/-- `ERR <- 1 ; NACK <- r.nack ; ARBLST <- r.arb` (R120). -/
def Status.errored (t : Status) (nack arb : Bool) : Status := { t with err := true, nack := nack, arblst := arb }

/-- `DEG[5:0] != 0` (R160). -/
def Status.degraded (t : Status) : Bool :=
  t.deg.accelX || t.deg.accelY || t.deg.accelZ || t.deg.gyroX || t.deg.gyroY || t.deg.gyroZ

/-! ### The classifier's conditions -/

/-- `inb_i`: `BAND_LO <= m_i` and `m_i <= BAND_HI`, both ends included (R184). -/
def inBand (params : Params) (v : Sample) : Bool :=
  decide (params.bandLo.toNat ≤ magnitude v) && decide (magnitude v ≤ params.bandHi.toNat)

/-- `low_i`: `m_i < BAND_LO`, strict (R184). -/
def belowBand (params : Params) (v : Sample) : Bool :=
  decide (magnitude v < params.bandLo.toNat)

/-- The orientation of an accelerometer triple: X, Y, Z tested in that order (R184). -/
def orientation (params : Params) (a : Triple Sample) : Orient :=
  if inBand params a.x && belowBand params a.y && belowBand params a.z then .axisX
  else if inBand params a.y && belowBand params a.x && belowBand params a.z then .axisY
  else if inBand params a.z && belowBand params a.x && belowBand params a.y then .axisZ
  else .noDominant

/-- The steady lamp of an orientation (R191). -/
def Orient.lamp : Orient → Lamp
  | .idle => .off
  | .axisX => .x
  | .axisY => .y
  | .axisZ => .z
  | .noDominant => .off

/-- `hit[i]` by the configured policy (R186 to R188): strictly greater, in exact arithmetic. -/
def impactHit (params : Params) (v prior : Sample) : Bool :=
  match params.policy with
  | .none => false
  | .abs => decide (magnitude v > params.impactThr.toNat)
  | .delta => decide (deltaMagnitude v prior > params.deltaThr.toNat)

/-- The three impact flags, evaluated together (R186). -/
def impactFlags (params : Params) (a prior : Triple Sample) : Triple Bool :=
  ⟨impactHit params a.x prior.x, impactHit params a.y prior.y, impactHit params a.z prior.z⟩

end Sys2Proof.Machine
end

