-- ==== Sys2Proof/Machine/Ops.lean ====
section
/-! DEFINITION. The named operations over the state: events, sequencer position, acceptance and completion of a
command (spec/10_state.md rules R35, R37, R40), the raising of a fault (spec/60_exceptions.md rules R214, R215), the
oracle with its script and its optional sensor (spec/20_memory.md rules R66 to R69), the host's register port
(R38, R39) and reset (spec/70_reset_and_hazards.md rule R240). -/

namespace Sys2Proof.Machine

/-! ### Events and the sequencer position -/

/-- `emit E` (R40): the event is appended to the history. -/
def State.emit (s : State) (e : Event) : State := { s with events := s.events ++ [e] }

/-- An assignment to the flags of `STATUS`. -/
def State.flags (s : State) (g : Status → Status) : State := { s with status := g s.status }

/-- `SEQ.STEP <- k`. -/
def State.setStep (s : State) (k : OpIndex) : State := { s with seq := { s.seq with step := k } }

/-- `SEQ.AXI <- i`. -/
def State.setAxi (s : State) (i : Axis) : State := { s with seq := { s.seq with axi := i } }

/-- `SEQ.PHASE <- p`. -/
def State.setPhase (s : State) (p : Phase) : State := { s with seq := { s.seq with phase := p } }

/-! ### Acceptance and completion of a command -/

/-- Acceptance (R35, R37): `BUSY` <- 1, `TOP` <- the opcode. -/
def State.accept (s : State) (op : Top) : State :=
  { s with status := { s.status with busy := true }, seq := { s.seq with top := op } }

/-- `STATUS.FAIL <- b`. -/
def State.setFail (s : State) (b : Bool) : State := { s with status := { s.status with fail := b } }

/-- Completion (R27, R35): `BUSY` <- 0, `TOP` <- 0. -/
def State.finish (s : State) : State :=
  { s with status := { s.status with busy := false }, seq := { s.seq with top := .none } }

/-! ### Faults -/

/-- The two faults of `raise <Fault>(info)` (00_scope.md section 6). -/
inductive RaisedFault where
  | illegalCommand
  | sequenceError
deriving DecidableEq, Repr

/-- `raise` (00_scope.md section 6; R214, R215; R221: "nothing is saved and control goes nowhere special"): the named
sticky bit and `FAIL` are set, no event is emitted and nothing else changes. Nothing returns from it (R222). -/
def State.raise (s : State) (x : RaisedFault) : State :=
  match x with
  | .illegalCommand => { s with status := { s.status with ill := true, fail := true } }
  | .sequenceError => { s with status := { s.status with seqf := true, fail := true } }

/-! ### The optional sensor (R68, R69); DESIGN CHOICE, log entries 9 and 10 -/

/-- What a register of the optional sensor that nothing has written reads as (log entry 10). -/
def Memory.unlisted : BitVec 8 := 0

/-- The byte at an address. -/
def Memory.read : Memory → Nat → BitVec 8
  | [], _ => Memory.unlisted
  | (a, v) :: rest, n => if a = n then v else Memory.read rest n

/-- The list without an address. -/
def Memory.erase : Memory → Nat → Memory
  | [], _ => []
  | (a, v) :: rest, n => if a = n then rest else (a, v) :: Memory.erase rest n

/-- The list with an address bound to a byte, addresses rising. -/
def Memory.insert : Memory → Nat → BitVec 8 → Memory
  | [], n, b => [(n, b)]
  | (a, v) :: rest, n, b =>
    if n < a then (n, b) :: (a, v) :: rest
    else if n = a then (n, b) :: rest
    else (a, v) :: Memory.insert rest n b

/-- A byte is written; writing what an unlisted address reads as removes the entry. -/
def Memory.write (m : Memory) (n : Nat) (b : BitVec 8) : Memory :=
  if b = Memory.unlisted then m.erase n else m.insert n b

/-- The canonical form: addresses below 256 (R60) and strictly rising, and no entry equal to an unlisted byte. -/
def Memory.wf : Memory → Bool
  | [] => true
  | [(a, v)] => decide (a < 256) && v != Memory.unlisted
  | (a, v) :: (b, w) :: rest => decide (a < b) && v != Memory.unlisted && Memory.wf ((b, w) :: rest)

/-- The register pointer after a read (R69: it "free-runs"); past 0xFF it is a free value (R62, log entry 9). -/
def Sensor.advance (ptr : Byte) : Byte :=
  if ptr = 0xFF then Config.pointerAfterTop else ptr + 1

/-- Whether the sensor is addressed (R68 (1)): by the slave address of a start; an operation without a start carries
no address and joins the open transaction, whatever its own `sa`. -/
def Sensor.hears (n : Sensor) (req : BusReq) : Bool := if req.start then req.sa == n.addr else n.addressed

/-- The sensor's answer to a request it hears (R68): a write with a start sets the pointer, a further write byte stores
through it, a read returns the byte under it and advances it; a stop ends the transaction (R68 (3)). DESIGN CHOICE
(log entry 9): nothing but a write changes a cell. R65 lets the sensor change a register pair between the two reads, and
I15 leaves what it does open. -/
def Sensor.answer (n : Sensor) (req : BusReq) : BusAnswer × Sensor :=
  let n := { n with addressed := !req.stop }
  match req.dir, req.start with
  | .write, true => (.complete false false 0, { n with ptr := req.data })
  | .write, false => (.complete false false 0, { n with cells := n.cells.write n.ptr.toNat req.data })
  | .read, _ => (.complete false false (n.cells.read n.ptr.toNat), { n with ptr := Sensor.advance n.ptr })

/-! ### The oracle -/

/-- `BusOracle(req)` (R66, R67): the next scripted answer if one is left; else the optional sensor's when there is one
that hears the request; else the free value, and the open transaction is not the sensor's. A scripted answer stands for
the whole bus: the request does not reach the sensor (log entry 9). -/
def Bus.answer (b : Bus) (req : BusReq) : BusAnswer × Bus :=
  match b.script, b.sensor with
  | a :: rest, _ => (a, { b with script := rest, asked := b.asked + 1 })
  | [], some n =>
    if n.hears req then
      ((n.answer req).1, { b with asked := b.asked + 1, sensor := some (n.answer req).2 })
    else
      (Config.busOracle b.asked req,
        { b with asked := b.asked + 1, sensor := some { n with addressed := false } })
  | [], none => (Config.busOracle b.asked req, { b with asked := b.asked + 1 })

/-! ### The host's side -/

/-- Zero-extension of a register to the 32 bits of the port (R38). -/
def toPort {n : Nat} (v : BitVec n) : Word := v.setWidth 32

/-- A host register read (R38): allowed at any time; numbers 0 and 15 to 255 give 0. -/
def State.portRead (s : State) (n : BitVec 8) : Word :=
  match n.toNat with
  | 1 => s.status.toWord
  | 2 => s.cls.toWord
  | 3 => s.seq.toWord
  | 4 => toPort s.dr
  | 5 => toPort s.xd
  | 6 => toPort s.f.accelX
  | 7 => toPort s.f.accelY
  | 8 => toPort s.f.accelZ
  | 9 => toPort s.f.gyroX
  | 10 => toPort s.f.gyroY
  | 11 => toPort s.f.gyroZ
  | 12 => toPort s.p.x
  | 13 => toPort s.p.y
  | 14 => toPort s.p.z
  | _ => 0

/-- The part of a host register write that does not depend on `BUSY` (R39): bits 15 to 0 go to `F` or `P`; every other
number has no effect. -/
def State.storeRegister (s : State) (n : BitVec 8) (v : Sample) : State :=
  match n.toNat with
  | 6 => { s with f := { s.f with accelX := v } }
  | 7 => { s with f := { s.f with accelY := v } }
  | 8 => { s with f := { s.f with accelZ := v } }
  | 9 => { s with f := { s.f with gyroX := v } }
  | 10 => { s with f := { s.f with gyroY := v } }
  | 11 => { s with f := { s.f with gyroZ := v } }
  | 12 => { s with p := { s.p with x := v } }
  | 13 => { s with p := { s.p with y := v } }
  | 14 => { s with p := { s.p with z := v } }
  | _ => s

/-- A host register write of a number other than 0 (R39): only while `BUSY` = 0. -/
def State.portWrite (s : State) (n : BitVec 8) (w : Word) : State :=
  if s.status.busy then s else s.storeRegister n (w.setWidth 16)

/-- Reset (R240): every register to its value of R43, the event history empty, no event emitted; the parameters and
the environment stay as they are (R241, R242). -/
def State.applyReset (s : State) : State := State.resetWith s.params s.bus s.host s.portOut

end Sys2Proof.Machine
end

