-- ==== Sys2Proof/Machine/Program.lean ====
section
/-! DEFINITION. The spec's pseudocode as data, and the two ways to read it: to its end, which is a command's meaning, and
up to a point inside it, which is where a host may read a register or apply reset (spec/10_state.md rules R34, R38,
spec/70_reset_and_hazards.md rule R240). Procedures and commands are written once, as programs. -/

namespace Sys2Proof.Machine

/-- A program: pseudocode lines in order. Locals (`r`, `hi`, `lo`) are what a continuation is given; they are no state
(R42). -/
inductive Prog (α : Type) where
  /-- `return a`. -/
  | ret (a : α)
  /-- One line that assigns or emits. -/
  | act (line : State → State) (next : Prog α)
  /-- The wait point of `Xfer` (R122): `r <- BusOracle(req)`. -/
  | ask (req : BusReq) (next : (nack arb : Bool) → (rdata : Byte) → Prog α)
  /-- What follows depends on registers or parameters; no line of its own. -/
  | look (next : State → Prog α)

/-- A procedure is called and its result is used. -/
def Prog.bind {α β : Type} : Prog α → (α → Prog β) → Prog β
  | .ret a, k => k a
  | .act f p, k => .act f (p.bind k)
  | .ask req p, k => .ask req fun nack arb rdata => (p nack arb rdata).bind k
  | .look p, k => .look fun s => (p s).bind k

/-- A procedure is called and its result is not tested. -/
def Prog.seq {α β : Type} (p : Prog α) (q : Prog β) : Prog β := p.bind fun _ => q

/-- The whole program: it returns, or the oracle answers `Never` and it stays at the wait point for ever (R122). -/
def Prog.run {α : Type} : Prog α → State → Proc α
  | .ret a, s => .ret a s
  | .act f p, s => p.run (f s)
  | .ask req p, s =>
    match s.bus.answer req with
    | (.never, bus) => .never { s with bus := bus }
    | (.complete nack arb rdata, bus) => (p nack arb rdata).run { s with bus := bus }
  | .look p, s => (p s).run s

/-- The state in which a procedure ends, or waits for ever. -/
def Proc.final {α : Type} : Proc α → State
  | .ret _ s => s
  | .never s => s

/-- The state after `k` lines, while the program is not over. Before the line of a wait point stands the state that
waits; a program that waits for ever is never over. -/
def Prog.point {α : Type} : Prog α → Nat → State → Option State
  | .ret _, _, _ => none
  | .act _ _, 0, s => some s
  | .act f p, k + 1, s => p.point k (f s)
  | .ask _ _, 0, s => some s
  | .ask req p, k + 1, s =>
    match s.bus.answer req with
    | (.never, bus) => some { s with bus := bus }
    | (.complete nack arb rdata, bus) => (p nack arb rdata).point k { s with bus := bus }
  | .look p, k, s => (p s).point k s

end Sys2Proof.Machine
end

