-- ==== Sys2Proof/Machine/Classifier.lean ====
section
/-! DEFINITION. The Classification State Machine: `Impact`, `Blink`, `Orient`, `UpdatePrior`, `Classify`, and the
meaning of CLSFY (spec/43_classifier.md rules R180 to R197). -/

namespace Sys2Proof.Machine

/-- `CLASS.LAMP <- code ; emit Lamp(code)`. -/
def setLamp (code : Lamp) : Prog Unit :=
  .act (fun s => { s with cls := { s.cls with lamp := code } }) <|
  .act (·.emit (.lamp code)) <|
  .ret ()

/-- `emit Delay(BLINK_DELAY)`. -/
def blinkDelay : Prog Unit := .act (fun s => s.emit (.delay s.params.blinkDelay)) <| .ret ()

/-- One blink (R190): lamp on, delay, lamp off, delay. -/
def blinkOnce (i : Accel) : Prog Unit :=
  (setLamp i.lamp).seq <| blinkDelay.seq <| (setLamp .off).seq <| blinkDelay

/-- `n` blinks, one after the other (R190). -/
def blinks (i : Accel) : Nat → Prog Unit
  | 0 => .ret ()
  | n + 1 => (blinkOnce i).seq (blinks i n)

/-- `Blink(i)` (R190): `BLINK_COUNT` blinks. -/
def blink (i : Accel) : Prog Unit := .look fun s => blinks i s.params.blinkCount.toNat

/-- The blink of an axis whose flag is 1 (R186). -/
def blinkIf (hit : Bool) (i : Accel) : Prog Unit := if hit then blink i else .ret ()

/-- `Impact()` (R186, R196): all three flags are evaluated and written before the first blink; then X, Y, Z blink in
that order. -/
def impact : Prog Unit :=
  .look fun s =>
  let hits := impactFlags s.params s.f.accel s.p
  .act (fun s => { s with cls := { s.cls with impact := hits } }) <|
  (blinkIf hits.x .x).seq <| (blinkIf hits.y .y).seq <| blinkIf hits.z .z

/-- `Orient()` (R184, R191, R197). -/
def orient : Prog Unit :=
  .look fun s =>
  if s.params.orientEn then
    let o := orientation s.params s.f.accel
    .act (fun s => { s with cls := { s.cls with orient := o } }) <| setLamp o.lamp
  else .act (fun s => { s with cls := { s.cls with orient := .idle, lamp := .off } }) <| .ret ()

/-- `UpdatePrior()` (R192): `P[i] <- F[i]` for i = 0, 1, 2. -/
def updatePrior : Prog Unit :=
  .act (fun s => { s with p := { s.p with x := s.f.accelX } }) <|
  .act (fun s => { s with p := { s.p with y := s.f.accelY } }) <|
  .act (fun s => { s with p := { s.p with z := s.f.accelZ } }) <|
  .ret ()

/-- `Classify()` (R181): impact, orientation, prior update, in that order. -/
def classify : Prog Unit := impact.seq <| orient.seq <| updatePrior

/-- The lines of CLSFY (R180): it cannot fail. -/
def progClsfy : Prog Unit :=
  .act (·.accept .clsfy) <|
  classify.seq <|
  .act (·.setFail false) <|
  .act (·.finish) <|
  .ret ()

/-- CLSFY (R180). -/
def execClsfy (s : State) : Host.Outcome State Fault Refusal := .next (progClsfy.run s).final

end Sys2Proof.Machine
end

