-- ==== Sys2Proof/Machine/BusEngine.lean ====
section
/-! DEFINITION. The Bus Transaction Engine: `Xfer`, `ForcedStop`, and the meanings of WRB, RDB and FSTOP
(spec/40_bus_engine.md rules R120 to R129). -/

namespace Sys2Proof.Machine

/-- `ForcedStop()` (R123): `PHASE` <- `ABORT`, `BusStop(1)`, `HELD` <- 0; no oracle, no wait. DESIGN CHOICE (log entry 14):
what a forced stop does to the bus is unknown (I16); the model leaves the environment `bus` (script, counter, optional
sensor) as it is, and every answer after it is as free as before. -/
def forcedStop : Prog Unit :=
  .act (·.setPhase .abort) <|
  .act (·.emit (.busStop true)) <|
  .act (·.flags fun t => { t with held := false }) <|
  .ret ()

/-- `Xfer` once the oracle has completed (R120): `BusResp`, then the error path with its forced stop, or the success
path. -/
def xferCompleted (dir : Dir) (stop nack arb : Bool) (rdata : Byte) : Prog Reply :=
  .act (·.emit (.busResp nack arb rdata)) <|
  .act (·.flags fun t => { t with xbusy := false }) <|
  .act (·.setPhase .check) <|
  if nack || arb then
    .act (·.flags (·.errored nack arb)) <|
    forcedStop.seq <|
    .act (·.setPhase .idle) <|
    .ret .fail
  else
    .act (fun s => { s with dr := match dir with | .write => s.dr | .read => rdata }) <|
    .act (·.flags fun t => { t with held := !stop }) <|
    .act (·.flags fun t => { t with hdir := dir }) <|
    .act (·.setPhase .idle) <|
    .look fun s => .ret (.ok s.dr)

/-- `Xfer(sa, dir, data, start, stop, ack)` (R120 to R122): one byte operation, after the continuation check of R121. -/
def xfer (sa : SlaveAddr) (dir : Dir) (data : Byte) (start stop ack : Bool) : Prog Reply :=
  .look fun s =>
  if s.status.mayTransfer dir start then
    let req := BusReq.of sa dir data start stop ack
    .act (·.setPhase .issue) <|
    .act (·.flags Status.errorsCleared) <|
    .act (fun s => { s with xd := req.descriptor }) <|
    .act (fun s => { s with dr := match dir with | .write => data | .read => s.dr }) <|
    .act (·.emit (.busReq req)) <|
    .act (·.flags fun t => { t with xbusy := true }) <|
    .act (·.setPhase .wait) <|
    .ask req (xferCompleted dir stop)
  else .act (·.raise .sequenceError) <| .ret .fail

/-- Acceptance, a byte operation as the whole command, `FAIL` <- outcome, completion (R35, R124, R125). -/
def progXfer (sa : SlaveAddr) (dir : Dir) (data : Byte) (start stop ack : Bool) : Prog Unit :=
  .act (·.accept .xfer) <|
  .act (·.setStep .op0) <|
  (xfer sa dir data start stop ack).bind fun r =>
  .act (·.setFail (r = .fail)) <|
  .act (·.finish) <|
  .ret ()

/-- The lines of WRB (R124). -/
def progWrb (sa : SlaveAddr) (data : Byte) (start stop : Bool) : Prog Unit := progXfer sa .write data start stop false

/-- The lines of RDB (R125). -/
def progRdb (sa : SlaveAddr) (start ack stop : Bool) : Prog Unit := progXfer sa .read 0 start stop ack

/-- The lines of FSTOP (R126). -/
def progFstop : Prog Unit :=
  .act (·.accept .xfer) <|
  forcedStop.seq <|
  .act (·.setPhase .idle) <|
  .act (·.setFail false) <|
  .act (·.finish) <|
  .ret ()

/-- WRB (R124). -/
def execWrb (sa : SlaveAddr) (data : Byte) (start stop : Bool) (s : State) : Host.Outcome State Fault Refusal :=
  .next ((progWrb sa data start stop).run s).final

/-- RDB (R125). -/
def execRdb (sa : SlaveAddr) (start ack stop : Bool) (s : State) : Host.Outcome State Fault Refusal :=
  .next ((progRdb sa start ack stop).run s).final

/-- FSTOP (R126). -/
def execFstop (s : State) : Host.Outcome State Fault Refusal := .next (progFstop.run s).final

end Sys2Proof.Machine
end

