-- ==== Sys2Proof/Machine/SensorDriver.lean ====
section
/-! DEFINITION. The Sensor Protocol Driver: `Init`, `RdAx`, and the meanings of INIT and RDAX
(spec/41_sensor_driver.md rules R140 to R149). -/

namespace Sys2Proof.Machine

/-- `STATUS.INITFAIL <- 1`, and `Fail` to the caller (R141). -/
def initFailed : Prog Verdict := .act (·.flags fun t => { t with initfail := true }) <| .ret .fail

/-- Operation 1 of `Init()` (R141): the wake value, a continuation that carries the stop. -/
def initWake : Prog Verdict :=
  .act (·.setStep .op1) <|
  .look fun s =>
  (xfer s.params.slaveAddr .write s.params.wakeVal false true false).bind fun r =>
  match r with
  | .fail => initFailed
  | .ok _ => .act (·.flags fun t => { t with initok := true }) <| .ret .ok

/-- `Init()` (R141): two byte operations under one address; the first failure ends it. Operation 0 is the register
select, with a start and no stop. -/
def init : Prog Verdict :=
  .act (·.flags fun t => { t with initok := false }) <|
  .act (·.setStep .op0) <|
  .look fun s =>
  (xfer s.params.slaveAddr .write s.params.pwrReg true false false).bind fun r =>
  match r with
  | .fail => initFailed
  | .ok _ => initWake

/-- `STATUS.DEG[d] <- b`. -/
def State.setDeg (s : State) (d : Axis) (b : Bool) : State := s.flags fun t => { t with deg := t.deg.set d b }

/-- `DEG[d]` <- 1, and `Fail` to the caller; `F[d]` is left as it was (R144, R146). -/
def rdAxFailed (d : Axis) : Prog Verdict := .act (·.setDeg d true) <| .ret .fail

/-- Operation 2 of `RdAx` (R144): the low byte, a continuation, not acknowledged, with the stop; when it succeeds
`F[d]` <- `{hi, lo}` and `DEG[d]` <- 0. -/
def rdAxLow (d : Axis) (hi : Byte) : Prog Verdict :=
  .act (·.setStep .op2) <|
  .look fun s =>
  (xfer s.params.slaveAddr .read 0 false true false).bind fun r =>
  match r with
  | .fail => rdAxFailed d
  | .ok lo =>
    .act (fun s => { s with f := s.f.set d (unpack hi lo) }) <|
    .act (·.setDeg d false) <|
    .ret .ok

/-- Operation 1 of `RdAx` (R144): a repeated start for reading, the high byte, acknowledged, no stop. -/
def rdAxHigh (d : Axis) : Prog Verdict :=
  .act (·.setStep .op1) <|
  .look fun s =>
  (xfer s.params.slaveAddr .read 0 true false true).bind fun r =>
  match r with
  | .fail => rdAxFailed d
  | .ok hi => rdAxLow d hi

/-- `RdAx(d, reg)` (R144): the first failure ends it. Operation 0 is the register select, with a start and no stop. -/
def rdAx (d : Axis) (reg : Byte) : Prog Verdict :=
  .act (·.setStep .op0) <|
  .look fun s =>
  (xfer s.params.slaveAddr .write reg true false false).bind fun r =>
  match r with
  | .fail => rdAxFailed d
  | .ok _ => rdAxHigh d

/-- Acceptance, a driver sequence, `FAIL` <- outcome, completion (R35, R140, R142). -/
def progDriver (op : Top) (p : Prog Verdict) : Prog Unit :=
  .act (·.accept op) <|
  p.bind fun r =>
  .act (·.setFail (r = .fail)) <|
  .act (·.finish) <|
  .ret ()

/-- The lines of INIT (R140). -/
def progInit : Prog Unit := progDriver .init init

/-- The lines of RDAX (R142). A `D` that names no axis is no command word (R93, R97): IllegalCommand (R214, log
entry 16). -/
def progRdax (d : BitVec 3) (reg : Byte) : Prog Unit :=
  match Axis.ofNumber d with
  | some i => progDriver .rdax (rdAx i reg)
  | none => .act (·.raise .illegalCommand) <| .ret ()

/-- INIT (R140). -/
def execInit (s : State) : Host.Outcome State Fault Refusal := .next (progInit.run s).final

/-- RDAX (R142). -/
def execRdax (d : BitVec 3) (reg : Byte) (s : State) : Host.Outcome State Fault Refusal :=
  .next ((progRdax d reg).run s).final

end Sys2Proof.Machine
end

