-- ==== Sys2Proof/Machine/SamplingCycle.lean ====
section
/-! DEFINITION. The Sampling Cycle: the report line, `Cycle`, and the meanings of CYCLE and RUN
(spec/42_sampling_cycle.md rules R160 to R172). -/

namespace Sys2Proof.Machine

/-- One field of the report (R165): label, colon, space, decimal value. -/
def reportField (label : List Char) (v : Sample) : List Byte :=
  label.map ascii ++ [ascii ':', ascii ' '] ++ dec v.toInt

/-- `ReportLine()` (R165): fields separated by one space, ended by the single byte 0x0A. -/
def reportLine (set : ReportSet) (f : PerAxis Sample) : List Byte :=
  reportField ['X'] f.accelX ++ [ascii ' '] ++ reportField ['Y'] f.accelY ++ [ascii ' ']
    ++ reportField ['Z'] f.accelZ
    ++ (match set with
        | .minimal => []
        | .full =>
          [ascii ' '] ++ reportField ['P', 'S', 'S', 'I'] f.gyroX ++ [ascii ' ']
            ++ reportField ['P', 'H', 'I'] f.gyroY ++ [ascii ' '] ++ reportField ['R', 'H', 'O'] f.gyroZ)
    ++ [0x0A]

/-- The reads of a cycle (R161): each axis in turn; a failed read ends that axis only (R163), a hang ends the cycle
(R172). -/
def readAxes : List Axis → Prog Unit
  | [] => .ret ()
  | i :: rest =>
    .act (·.setAxi i) <|
    .look fun s =>
    (rdAx i (axisAddr s.params i)).seq (readAxes rest)

/-- The stages of a cycle after the reads (R161, R162): classification, report, delay. -/
def afterReads : Prog Unit :=
  classify.seq <|
  .act (fun s => s.emit (.report (reportLine s.params.reportSet s.f))) <|
  .act (fun s => s.emit (.delay s.params.cycleDelay)) <|
  .ret ()

/-- `Cycle()` (R161). -/
def cycle : Prog Unit := (readAxes Axis.all).seq afterReads

/-- The lines of CYCLE (R160): `FAIL` is 1 when at least one axis was degraded. -/
def progCycle : Prog Unit :=
  .act (·.accept .cycle) <|
  cycle.seq <|
  .act (fun s => s.setFail s.status.degraded) <|
  .act (·.finish) <|
  .ret ()

/-- CYCLE (R160). -/
def execCycle (s : State) : Host.Outcome State Fault Refusal := .next (progCycle.run s).final

/-- What RUN does once `Init` has failed (R168): log once, then halt when `INIT_FATAL` = 1, else enter the loop. -/
def runInitFailed : Prog Unit :=
  .act (·.setFail true) <|
  .act (·.emit (.log .initFailed)) <|
  .look fun s => if s.params.initFatal then .act (·.flags fun t => { t with halt := true }) <| .ret () else .ret ()

/-- The lines of RUN (R167, R168) up to the entry of its loop: `BUSY` stays 1 and `TOP` 6; every later step of the
machine is one `Cycle()` of the loop (log entry 2). -/
def progRun : Prog Unit :=
  .act (·.accept .run) <|
  init.bind fun r =>
  match r with
  | .ok => .act (·.setFail false) <| .ret ()
  | .fail => runInitFailed

/-- RUN (R167, R168). -/
def execRun (s : State) : Host.Outcome State Fault Refusal := .next (progRun.run s).final

/-- RUN is in its loop (R167): busy with `TOP` = 6, not waiting for the bus and not halted. -/
def State.inLoop (s : State) : Bool :=
  s.status.busy && !s.status.xbusy && !s.status.halt && s.seq.top == .run

/-- What CDSEQ has to do by itself (R34, R167): one cycle in RUN's loop; nothing at a quiescent point. -/
def State.ownWork (s : State) : Prog Unit := if s.inLoop then cycle else .ret ()

/-- What CDSEQ does by itself. -/
def ownStep (s : State) : State := (s.ownWork.run s).final

end Sys2Proof.Machine
end

