-- ==== Sys2Proof/Machine/Dispatch.lean ====
section
/-! DEFINITION. The meaning of every operation: one arm per row of spec/opcode_table.json. -/

namespace Sys2Proof.Machine

-- exec is the execution of an accepted command (R37): the step presents a word only while BUSY = 0 (log entry 12).
def exec (i : Instr) (s : State) : Host.Outcome State Fault Refusal :=
  match i with
  | .wrb sa data start stop => Sys2Proof.Machine.execWrb sa data start stop s
  | .rdb sa start ack stop => Sys2Proof.Machine.execRdb sa start ack stop s
  | .fstop => Sys2Proof.Machine.execFstop s
  | .init => Sys2Proof.Machine.execInit s
  | .rdax d reg => Sys2Proof.Machine.execRdax d reg s
  | .clsfy => Sys2Proof.Machine.execClsfy s
  | .cycle => Sys2Proof.Machine.execCycle s
  | .run => Sys2Proof.Machine.execRun s

end Sys2Proof.Machine
end

