-- ==== Sys2Proof/Machine/HostPort.lean ====
section
/-! DEFINITION. What a step does: a command word on the command port (spec/10_state.md rule R37), the four things a
host can do, between commands and inside them (R36 to R39, R240), CDSEQ's own step when the host does nothing (R34,
R167), and where the next command word stands (log entries 2, 4, 6, 11). -/

namespace Sys2Proof.Machine

/-- A command word on the command port (R37): lost while `BUSY` = 1; else decoded and executed, an illegal word raising
IllegalCommand (R96, R214). -/
def present (w : Word) (s : State) : Host.Outcome State Fault Refusal :=
  if s.status.busy then .next s
  else match decode w with
    | .ok i => exec i s
    | .error _ => .next (s.raise .illegalCommand)

/-- The lines of a command (R94). -/
def program : Instr → Prog Unit
  | .wrb sa data start stop => progWrb sa data start stop
  | .rdb sa start ack stop => progRdb sa start ack stop
  | .fstop => progFstop
  | .init => progInit
  | .rdax d reg => progRdax d reg
  | .clsfy => progClsfy
  | .cycle => progCycle
  | .run => progRun

/-- What CDSEQ executes in a step in which the host presents this word, or none (R34, R37). DESIGN CHOICE (log entry 2):
the spec gives no `TOP` between the acceptance of an illegal word and its refusal, nor says whether the host can act there
(R37, R96); here the two are one line, `BUSY` never reads 1 for such a word, and no act of the host falls inside. -/
def State.work (s : State) (word : Option Word) : Prog Unit :=
  match word with
  | none => s.ownWork
  | some w =>
    if s.status.busy then .ret ()
    else match decode w with
      | .ok i => program i
      | .error _ => .act (·.raise .illegalCommand) (.ret ())

/-- A program with the host acting inside it, the next act `k` lines after line `line`. A read shows the registers of
that moment and has no other effect (R38); a write is lost, since `BUSY` = 1 there (R37, R39); a reset abandons the
command where it stands (R240). An act that would come after the last line does not happen. -/
def interrupted (p : Prog Unit) : Nat → List (Nat × Midway) → State → State
  | _, [], s => (p.run s).final
  | line, (k, m) :: rest, s =>
    match p.point (line + k) s with
    | none => (p.run s).final
    | some now =>
      match m with
      | .reset => now.applyReset
      | .read n => interrupted p (line + k) rest { s with portOut := s.portOut ++ [now.portRead n] }
      | .write _ _ => interrupted p (line + k) rest s

/-- One action of the host on the state it finds (R36). Line 1 of a program is the one after acceptance. -/
def hostStep (act : HostAction) (s : State) : Host.Outcome State Fault Refusal :=
  match act with
  | .reset => .next s.applyReset
  | .write n w => if n = 0 then present w s else .next (s.portWrite n w)
  | .read n => .next { s with portOut := s.portOut ++ [s.portRead n] }
  | .wait => .next (ownStep s)
  | .during word acts => .next (interrupted (s.work word) 1 acts s)

/-- The first pending host action is taken off the list and carried out; with none pending CDSEQ takes a step of its
own. -/
def machineStep (s : State) : Host.Outcome State Fault Refusal :=
  match s.host with
  | [] => .next (ownStep s)
  | act :: rest => hostStep act { s with host := rest }

/-- The command word of `nbits` bits given as a number; bits above `nbits` are 0 (R90: every command is one 32-bit
word). -/
def commandWord (nbits w : Nat) : Word := BitVec.ofNat 32 (w % 2 ^ nbits)

/-- The host presents the word next: a write to register number 0 stands first among its pending actions (R37, R39). -/
def State.presentNext (s : State) (w : Word) : State := { s with host := .write 0 w :: s.host }

end Sys2Proof.Machine
end

