-- ==== Sys2Proof/Machine/Step.lean ====
section
/-! DEFINITION. One step of the machine, and where a step finds its next command word (log entry 11). -/

namespace Sys2Proof.Machine

/-- One step: a host action, or CDSEQ's own step (R34, R36). -/
def step (s : State) : Host.Outcome State Fault Refusal := machineStep s

/-- `s` with the command word where `step` finds it: first among the host's pending actions. An idle machine accepts it
in the very next step (R37). -/
def State.withFetchWord (s : State) (nbits w : Nat) : State := s.presentNext (commandWord nbits w)

end Sys2Proof.Machine
end

