-- ==== Sys2Proof/Machine/Assembler.lean ====
section
/-! DEFINITION. The assembler syntax and the pseudo-instructions (spec/30_encoding.md rules R100 to R102). No part of
the machine reads it: it says which commands a written program stands for. -/

namespace Sys2Proof.Machine

/-! ### Pseudo-instructions (R101, R102) -/

/-- The source's contract names (R101); `readAxis` names the frame register that receives the sample. -/
inductive Contract where
  | writeByte (sa : SlaveAddr) (b : Byte) (sendStop : Bool)
  | readByte (sa : SlaveAddr) (ackContinue sendStop : Bool)
  | initializeDevice
  | readAxis (d : BitVec 3) (reg : Byte)
deriving DecidableEq, Repr

/-- Whether an operation of this direction must address the slave (R102): no transaction is open, or the open one has
the other direction. -/
def needsStart (opened : Option Dir) (dir : Dir) : Bool :=
  match opened with
  | none => true
  | some d => d != dir

/-- The command of one call, given the direction of the transaction open at that point of the program. -/
def Contract.expand (opened : Option Dir) : Contract → Instr
  | .writeByte sa b sendStop => .wrb sa b (needsStart opened .write) sendStop
  | .readByte sa ackContinue sendStop => .rdb sa (needsStart opened .read) ackContinue sendStop
  | .initializeDevice => .init
  | .readAxis d reg => .rdax d reg

/-- The transaction open after a call that succeeded. -/
def Contract.opensAfter : Contract → Option Dir
  | .writeByte _ _ sendStop => if sendStop then none else some .write
  | .readByte _ _ sendStop => if sendStop then none else some .read
  | .initializeDevice => none
  | .readAxis _ _ => none

/-- A sequence of calls, each succeeding, from a point at which `opened` is open (R102's table). -/
def expandCalls (opened : Option Dir) : List Contract → List Instr
  | [] => []
  | c :: rest => c.expand opened :: expandCalls c.opensAfter rest

/-! ### Assembler lines (R100) -/

/-- The characters between separators. -/
def splitAt (sep : Char) (line : List Char) : List (List Char) :=
  line.foldr (fun c acc =>
    if c = sep then [] :: acc
    else match acc with
      | [] => [[c]]
      | word :: rest => (c :: word) :: rest) [[]]

/-- Spaces around an operand are no part of it. -/
def trimSpaces (w : List Char) : List Char :=
  ((w.dropWhile (· = ' ')).reverse.dropWhile (· = ' ')).reverse

/-- The value of one digit in base 10 or 16. -/
def digitValue (base : Nat) (c : Char) : Option Nat :=
  let n := c.toNat
  let v :=
    if '0'.toNat ≤ n ∧ n ≤ '9'.toNat then n - '0'.toNat
    else if 'a'.toNat ≤ n ∧ n ≤ 'f'.toNat then n - 'a'.toNat + 10
    else if 'A'.toNat ≤ n ∧ n ≤ 'F'.toNat then n - 'A'.toNat + 10
    else base
  if v < base then some v else none

/-- A non-empty string of digits. -/
def digitsValue (base : Nat) : List Char → Option Nat
  | [] => none
  | c :: rest =>
    (c :: rest).foldl (fun acc d => match acc, digitValue base d with
      | some a, some v => some (base * a + v)
      | _, _ => none) (some 0)

/-- A number, decimal or `0x` hexadecimal, that fits in `n` bits. -/
def number (n : Nat) (w : List Char) : Option (BitVec n) :=
  let v := match w with
    | '0' :: 'x' :: ds => digitsValue 16 ds
    | ds => digitsValue 10 ds
  match v with
  | some k => if k < 2 ^ n then some (BitVec.ofNat n k) else none
  | none => none

/-- The flag letters of a line, in any order, each at most once and only those allowed. -/
def flagLetters (allowed : List Char) (ws : List (List Char)) : Option (List Char) :=
  let letters := ws.flatten
  if ws.all (fun w => w.length = 1) && letters.all (allowed.contains ·) && decide letters.Nodup then some letters
  else none

/-- The register name `F0` to `F5`. -/
def frameRegister (w : List Char) : Option (BitVec 3) :=
  match w with
  | ['F', c] => match digitValue 6 c with
    | some v => some (BitVec.ofNat 3 v)
    | none => none
  | _ => none

/-- The mnemonic and the operands of a line. -/
def splitLine (line : List Char) : List Char × List (List Char) :=
  let line := trimSpaces line
  let name := line.takeWhile (· ≠ ' ')
  let rest := trimSpaces (line.dropWhile (· ≠ ' '))
  (name, if rest.isEmpty then [] else (splitAt ',' rest).map trimSpaces)

/-- One line of assembler text (R100); `none` when the line is not of that syntax. -/
def assemble (line : List Char) : Option Instr :=
  match splitLine line with
  | (['W', 'R', 'B'], sa :: data :: flags) =>
    match number 7 sa, number 8 data, flagLetters ['S', 'P'] flags with
    | some a, some d, some fl => some (.wrb a d (fl.contains 'S') (fl.contains 'P'))
    | _, _, _ => none
  | (['R', 'D', 'B'], sa :: flags) =>
    match number 7 sa, flagLetters ['S', 'A', 'P'] flags with
    | some a, some fl => some (.rdb a (fl.contains 'S') (fl.contains 'A') (fl.contains 'P'))
    | _, _ => none
  | (['F', 'S', 'T', 'O', 'P'], []) => some .fstop
  | (['I', 'N', 'I', 'T'], []) => some .init
  | (['R', 'D', 'A', 'X'], [fd, reg]) =>
    match frameRegister fd, number 8 reg with
    | some d, some r => some (.rdax d r)
    | _, _ => none
  | (['C', 'L', 'S', 'F', 'Y'], []) => some .clsfy
  | (['C', 'Y', 'C', 'L', 'E'], []) => some .cycle
  | (['R', 'U', 'N'], []) => some .run
  | _ => none

end Sys2Proof.Machine
end

