-- ==== Sys2Proof/Safety.lean ====
section
/-! DEFINITION. The terms claims about CDSEQ use: the quiescent points (spec/10_state.md rule R34), a run that went well
(spec/60_exceptions.md rule R232), what the event history says about the bus (spec/20_memory.md rule R72), and the
invariant of the machine. -/

namespace Sys2Proof.Machine

/-! ### Quiescent points (R34) -/

/-- Idle: `BUSY` = 0, `TOP` = 0, `PHASE` = IDLE; no byte operation is outstanding and `HALT` = 0. -/
def State.Idle (s : State) : Prop :=
  s.status.busy = false ∧ s.status.xbusy = false ∧ s.status.halt = false ∧ s.seq.top = .none ∧ s.seq.phase = .idle

/-- Hung: `BUSY` = 1, `XBUSY` = 1, `PHASE` = WAIT, `TOP` the opcode of a command that uses the bus. -/
def State.Hung (s : State) : Prop :=
  s.status.busy = true ∧ s.status.xbusy = true ∧ s.status.halt = false ∧ s.seq.phase = .wait ∧
    (s.seq.top = .xfer ∨ s.seq.top = .init ∨ s.seq.top = .rdax ∨ s.seq.top = .cycle ∨ s.seq.top = .run)

/-- Halted: `HALT` = 1, `BUSY` = 1, `TOP` = 6, `PHASE` = IDLE. -/
def State.Halted (s : State) : Prop :=
  s.status.busy = true ∧ s.status.xbusy = false ∧ s.status.halt = true ∧ s.seq.top = .run ∧ s.seq.phase = .idle

/-- Between two cycles of RUN's loop (R167): the one point at which CDSEQ goes on by itself. -/
def State.Looping (s : State) : Prop :=
  s.status.busy = true ∧ s.status.xbusy = false ∧ s.status.halt = false ∧ s.seq.top = .run ∧ s.seq.phase = .idle

/-- A state in which CDSEQ takes no step by itself. -/
def State.Quiescent (s : State) : Prop := s.Idle ∨ s.Hung ∨ s.Halted

/-- A run that went well ends here (R232): idle, with `ILL`, `SEQF` and `HALT` clear. -/
def State.Final (s : State) : Prop :=
  s.Idle ∧ s.status.ill = false ∧ s.status.seqf = false ∧ s.status.halt = false

/-- This action of the host applies reset, between commands or inside one (R240). -/
def HostAction.resets : HostAction → Bool
  | .reset => true
  | .during _ acts => acts.any fun a => a.2 == .reset
  | .write _ _ => false
  | .read _ => false
  | .wait => false

/-- The host applies no reset in the next step. -/
def State.NoReset (s : State) : Prop := ∀ act, s.host.head? = some act → act.resets = false

/-! ### What the event history says about the bus (R30, R72, R121, R123) -/

/-- The bus as an observer of the event history knows it: the request without an answer, whether a forced stop is owed
for an error just reported, and the direction of the open transaction. -/
structure BusView where
  pending : Option BusReq
  owesStop : Bool
  opened : Option Dir
deriving DecidableEq, Repr

/-- Nothing has happened. -/
def BusView.start : BusView := { pending := none, owesStop := false, opened := none }

/-- One more event; `none` when the bus protocol of R72 and R121 forbids it there: a request while another is pending
or a forced stop is owed, or a continuation without an open transaction of its direction; an answer to no request; a
forced stop, or any hand-over to a collaborator, in the middle of a byte operation. -/
def BusView.next (v : BusView) (e : Event) : Option BusView :=
  match e, v.pending with
  | .busReq r, none =>
    if v.owesStop = false ∧ (r.start = true ∨ v.opened = some r.dir) then some { v with pending := some r } else none
  | .busReq _, some _ => none
  | .busResp nack arb _, some r =>
    if nack || arb then some { v with pending := none, owesStop := true }
    else some { v with pending := none, opened := if r.stop then none else some r.dir }
  | .busResp _ _ _, none => none
  | .busStop forced, none => if forced then some { v with owesStop := false, opened := none } else none
  | .busStop _, some _ => none
  | _, none => if v.owesStop then none else some v
  | _, some _ => none

/-- The view after a history, from a given view; `none` when some event was forbidden. -/
def BusView.after : BusView → List Event → Option BusView
  | v, [] => some v
  | v, e :: rest =>
    match v.next e with
    | none => none
    | some v => v.after rest

/-- The view the registers claim (R28, R30): a request is pending exactly when `XBUSY` = 1 and it is the one `XD`
describes; a transaction is open exactly when `HELD` = 1, in the direction `HDIR`; no forced stop is owed. -/
def State.agreesWithBus (s : State) (v : BusView) : Prop :=
  v.owesStop = false ∧
    v.opened = (if s.status.held then some s.status.hdir else none) ∧
    (match v.pending with
      | none => s.status.xbusy = false
      | some r => s.status.xbusy = true ∧ s.xd = r.descriptor)

/-- The event history obeys the bus protocol, and `XBUSY`, `XD`, `HELD`, `HDIR` say what it says. -/
def State.BusConsistent (s : State) : Prop :=
  ∃ v, BusView.start.after s.events = some v ∧ s.agreesWithBus v

/-! ### What the environment answers, as hypotheses of claims (R66, R67) -/

/-- An answer that completes (R66): the two error flags and the byte. -/
structure Completion where
  nack : Bool
  arb : Bool
  rdata : Byte
deriving DecidableEq, Repr

/-- The answer as the oracle gives it. -/
def Completion.answer (c : Completion) : BusAnswer := .complete c.nack c.arb c.rdata

/-- "Either makes the error flag" (R66). -/
def Completion.isError (c : Completion) : Bool := c.nack || c.arb

/-- The oracle gives these answers to these requests, in order, and is then `b'`. -/
def Bus.Serves : Bus → List (BusReq × BusAnswer) → Bus → Prop
  | b, [], b' => b = b'
  | b, (q, a) :: rest, b' => (b.answer q).1 = a ∧ (b.answer q).2.Serves rest b'

/-- The same answers, as the oracle gives them. -/
def asAnswers (x : List (BusReq × Completion)) : List (BusReq × BusAnswer) := x.map fun e => (e.1, e.2.answer)

/-- The events of byte operations that complete (R120): request, response, and the forced stop of an error. -/
def exchangeEvents : List (BusReq × Completion) → List Event
  | [] => []
  | (q, c) :: rest =>
    [.busReq q, .busResp c.nack c.arb c.rdata] ++ (if c.isError then [.busStop true] else []) ++ exchangeEvents rest

/-- The three byte operations of `RdAx` (R144): register select, high byte, low byte. -/
def selectReq (slave : SlaveAddr) (reg : Byte) : BusReq :=
  { sa := slave, dir := .write, data := reg, start := true, stop := false, ack := false }
def highReq (slave : SlaveAddr) : BusReq :=
  { sa := slave, dir := .read, data := 0, start := true, stop := false, ack := true }
def lowReq (slave : SlaveAddr) : BusReq :=
  { sa := slave, dir := .read, data := 0, start := false, stop := true, ack := false }

/-- The two byte operations of `Init` (R141): register select, wake value. -/
def powerReq (params : Params) : BusReq :=
  { sa := params.slaveAddr, dir := .write, data := params.pwrReg, start := true, stop := false, ack := false }
def wakeReq (params : Params) : BusReq :=
  { sa := params.slaveAddr, dir := .write, data := params.wakeVal, start := false, stop := true, ack := false }

/-- How the bus completes the read of one axis: the answers to the three operations, of which those after the first
error are never asked for (R144). -/
structure AxisAnswers where
  select : Completion
  high : Completion
  low : Completion
deriving DecidableEq, Repr

/-- The operations of one axis that are issued, with their answers: the first error ends the sequence (R144). -/
def AxisAnswers.exchange (o : AxisAnswers) (slave : SlaveAddr) (reg : Byte) : List (BusReq × Completion) :=
  if o.select.isError then [(selectReq slave reg, o.select)]
  else if o.high.isError then [(selectReq slave reg, o.select), (highReq slave, o.high)]
  else [(selectReq slave reg, o.select), (highReq slave, o.high), (lowReq slave, o.low)]

/-- The sample read, when all three operations succeed: the byte read first is the more significant (R143, R144). -/
def AxisAnswers.sample (o : AxisAnswers) : Option Sample :=
  if o.select.isError || o.high.isError || o.low.isError then none else some (o.high.rdata ++ o.low.rdata)

/-- The index of the last operation issued (R35: "`STEP` keeps the index of the failed operation"). -/
def AxisAnswers.lastStep (o : AxisAnswers) : OpIndex :=
  if o.select.isError then .op0 else if o.high.isError then .op1 else .op2

/-- The last operation issued, with its answer. -/
def AxisAnswers.last (o : AxisAnswers) (slave : SlaveAddr) (reg : Byte) : BusReq × Completion :=
  match o.lastStep with
  | .op0 => (selectReq slave reg, o.select)
  | .op1 => (highReq slave, o.high)
  | .op2 => (lowReq slave, o.low)

/-- `DR` afterwards (R25): the register address the select sent, or the last byte received without error. -/
def AxisAnswers.finalDr (o : AxisAnswers) (reg : Byte) : Byte :=
  match o.lastStep with
  | .op0 => reg
  | .op1 => reg
  | .op2 => if o.low.isError then o.high.rdata else o.low.rdata

/-- `HDIR` afterwards (R27): the direction of the last operation that completed without error. -/
def AxisAnswers.finalDir (o : AxisAnswers) (before : Dir) : Dir :=
  match o.lastStep with
  | .op0 => before
  | .op1 => .write
  | .op2 => .read

/-- The byte operations of the reads of a cycle, axes 0 to 5 in order, with their answers (R161). -/
def cycleExchange (params : Params) (o : PerAxis AxisAnswers) : List (BusReq × Completion) :=
  Axis.all.flatMap fun i =>
    (o.get i).exchange params.slaveAddr (BitVec.ofNat 8 ((params.axisBase.toNat + 2 * i.number.toNat) % 256))

/-! ### The events of a classification (R181, R190, R191) -/

/-- `n` blinks of one lamp, each lamp on, delay, lamp off, delay (R190). -/
def blinkEvents (code : Lamp) (token : Token) (n : Nat) : List Event :=
  (List.replicate n [Event.lamp code, .delay token, .lamp .off, .delay token]).flatten

/-- The blink sequences of the flagged axes in the order X, Y, Z, then the steady lamp when orientation is on. -/
def classifyEvents (params : Params) (hits : Triple Bool) (o : Orient) : List Event :=
  (if hits.x then blinkEvents .x params.blinkDelay params.blinkCount.toNat else [])
    ++ (if hits.y then blinkEvents .y params.blinkDelay params.blinkCount.toNat else [])
    ++ (if hits.z then blinkEvents .z params.blinkDelay params.blinkCount.toNat else [])
    ++ (if params.orientEn then [.lamp o.lamp] else [])

/-- The orientation a classification leaves: Idle with `ORIENT_EN` = 0 (R184). -/
def orientResult (params : Params) (a : Triple Sample) : Orient :=
  if params.orientEn then orientation params a else .idle

/-! ### The invariant -/

/-- The flags agree with one another: `ERR` = `NACK` or `ARBLST` (R29); an error leaves no transaction open (R123);
`HALT` follows an initialisation failure, reported in `FAIL` and `INITFAIL`, of a RUN under `INIT_FATAL` = 1 (R168). -/
def State.FlagsAgree (s : State) : Prop :=
  s.status.err = (s.status.nack || s.status.arblst) ∧
    (s.status.err = true → s.status.held = false) ∧
    (s.status.halt = true → s.status.fail = true ∧ s.status.initfail = true ∧ s.params.initFatal = true)

/-- `CLASS` at rest: the lamp is the one the orientation maps to (R191); with `ORIENT_EN` = 0 the orientation is Idle,
hence the lamp off (R197); under `POLICY` = NONE no impact flag is set (R186). -/
def State.ClassesAgree (s : State) : Prop :=
  s.cls.lamp = s.cls.orient.lamp ∧
    (s.params.orientEn = false → s.cls.orient = .idle) ∧
    (s.params.policy = .none → s.cls.impact = ⟨false, false, false⟩)

/-- The optional sensor's register space is in its canonical form (log entry 10). -/
def State.SensorWf (s : State) : Prop :=
  ∀ n, s.bus.sensor = some n → n.cells.wf = true

/-- What holds at reset and is kept by every step. -/
structure State.Inv (s : State) : Prop where
  rest : s.Quiescent ∨ s.Looping
  flags : s.FlagsAgree
  classes : s.ClassesAgree
  sensor : s.SensorWf

end Sys2Proof.Machine
end

