-- ==== Sys2Proof/Certificates/Slice0/Obligations.lean ====
section
/-! DEFINITION. The statements about CDSEQ for the provers, file by file of spec/. A statement about an instruction gives
the whole next state as an update of the state before, so that what is not named is unchanged. -/

open Sys2Proof Sys2Proof.Machine

/-! ### Reset and the invariant (10_state.md, 70_reset_and_hazards.md) -/

/-- R43: after a reset every register of R20 is zero and the event history is empty. -/
def Obligations.ResetZeroesEveryRegister : Prop :=
  ∀ (s : State) (rest : List HostAction), s.host = .reset :: rest →
    ∃ t, step s = .next t ∧
      (∀ i, t.f.get i = 0) ∧ (∀ i, t.p.get i = 0) ∧ t.dr = 0 ∧ t.xd = 0 ∧ t.status.toWord = 0 ∧ t.cls.toWord = 0 ∧
      t.seq.toWord = 0 ∧ t.events = []

/-- R240, R241, R242: a reset, in any state, leaves CDSEQ idle and touches neither the parameters nor the environment.
(That the environment is a field, and that the port keeps the words it returned, is the model's, log entry 7.) -/
def Obligations.ResetLeavesIdleAndKeepsTheEnvironment : Prop :=
  ∀ (s : State) (rest : List HostAction), s.host = .reset :: rest →
    ∃ t, step s = .next t ∧ t.Idle ∧ t.params = s.params ∧ t.bus = s.bus ∧ t.host = rest ∧ t.portOut = s.portOut

/-- R240, R242: a reset inside a command or inside a cycle of RUN's loop, wherever it falls, abandons it: the registers and
the history are as after any reset, CDSEQ is idle, and the environment is where the lines before it had left it: a
transaction, a waiting operation or a blink sequence is broken off without an event. (That the host's acts are listed
with the step, and fall between two lines, is the model's, log entry 2.) -/
def Obligations.ResetInsideACommandAbandonsIt : Prop :=
  (∀ (s : State) (word : Option Word) (k : Nat) (rest : List HostAction) (t : State),
    (s.work word).point (1 + k) { s with host := rest } = some t →
    ∃ u, step { s with host := .during word [(k, .reset)] :: rest } = .next u ∧ u.Idle ∧
      (∀ i, u.f.get i = 0) ∧ (∀ i, u.p.get i = 0) ∧ u.dr = 0 ∧ u.xd = 0 ∧ u.status.toWord = 0 ∧ u.cls.toWord = 0 ∧
      u.seq.toWord = 0 ∧ u.events = [] ∧ u.params = s.params ∧ u.bus = t.bus ∧ u.host = rest ∧
      u.portOut = s.portOut) ∧
  (∀ (s : State) (w : Word) (i : Instr), s.status.busy = false → decode w = .ok i → s.work (some w) = program i) ∧
  ∀ s : State, s.Looping → s.work none = cycle

/-- The invariant and the bus protocol hold at reset, whatever the parameters, and with any sensor whose registers are in
canonical form. -/
def Obligations.ResetStateMeetsInvariant : Prop :=
  State.reset.Inv ∧ State.reset.BusConsistent ∧
    ∀ params bus host portOut, (∀ n : Sensor, bus.sensor = some n → n.cells.wf = true) →
      (State.resetWith params bus host portOut).Inv ∧ (State.resetWith params bus host portOut).BusConsistent

/-- Every step keeps the invariant: rest points (R34), flag agreement (R29, R123, R168), class agreement (R191, R197,
R186), the canonical form of the optional sensor's registers (log entry 10). -/
def Obligations.StepKeepsInvariant : Prop :=
  ∀ s t : State, s.Inv → step s = .next t → t.Inv

/-- R72 (a), R121, R123 as a property of the history alone: from any state whose history obeys the bus protocol and
whose registers agree with it, a step leads to such a state again, and an error is always followed by its forced stop
before anything else. -/
def Obligations.EventHistoryKeepsBusProtocol : Prop :=
  ∀ s t : State, (s.Quiescent ∨ s.Looping) → s.BusConsistent → step s = .next t →
    (t.Quiescent ∨ t.Looping) ∧ t.BusConsistent

/-- A step never faults and never refuses. That every abnormal condition of R210, the hang and the halt among them, is a
next state is the model's reading (log entry 18, DEDUCED; log entry 6 for the quiescent points). -/
def Obligations.EveryStepAnswersNext : Prop :=
  ∀ s : State, (∃ t, step s = .next t) ∧ ∀ i, ∃ t, exec i s = .next t

/-! ### Encoding (30_encoding.md) -/

def Obligations.EncodedInstructionDecodesBack : Prop :=
  ∀ i : Instr, i.wellFormed = true → decode (encode i) = .ok i

def Obligations.DecodedWordIsItsEncoding : Prop :=
  ∀ (w : Word) (i : Instr), decode w = .ok i → i.wellFormed = true ∧ encode i = w

/-- R95, the mask and match of each mnemonic. -/
def Obligations.MasksAndMatchesTellTheMnemonics : Prop :=
  ∀ w : Word,
    ((∃ sa data start stop, decode w = .ok (.wrb sa data start stop)) ↔ w &&& 0xF90100FF#32 = 0x11000000#32) ∧
    ((∃ sa start ack stop, decode w = .ok (.rdb sa start ack stop)) ↔ w &&& 0xF101FFFF#32 = 0x11010000#32) ∧
    (decode w = .ok .fstop ↔ w = 0x14000000#32) ∧
    (decode w = .ok .init ↔ w = 0x20000000#32) ∧
    ((∃ d reg, decode w = .ok (.rdax d reg)) ↔
      w &&& 0xFFF800FF#32 = 0x30000000#32 ∧ w.extractLsb' 16 3 ≤ 5#3) ∧
    (decode w = .ok .clsfy ↔ w = 0x40000000#32) ∧
    (decode w = .ok .cycle ↔ w = 0x50000000#32) ∧
    (decode w = .ok .run ↔ w = 0x60000000#32)

/-- The tests of R96 in their order: which words each of them refuses. -/
def Obligations.FirstFailingTestNamesTheRefusal : Prop :=
  ∀ w : Word,
    (decode w = .error .reservedOpcode ↔ ¬ (1#4 ≤ w.extractLsb' 28 4 ∧ w.extractLsb' 28 4 ≤ 6#4)) ∧
    (decode w = .error .nonzeroReservedBits ↔
      (w.extractLsb' 28 4 = 1#4 ∧ w.extractLsb' 0 8 ≠ 0#8) ∨
      (w.extractLsb' 28 4 = 3#4 ∧ (w.extractLsb' 19 9 ≠ 0#9 ∨ w.extractLsb' 0 8 ≠ 0#8)) ∨
      ((w.extractLsb' 28 4 = 2#4 ∨ w.extractLsb' 28 4 = 4#4 ∨ w.extractLsb' 28 4 = 5#4 ∨ w.extractLsb' 28 4 = 6#4) ∧
        w.extractLsb' 0 28 ≠ 0#28)) ∧
    (decode w = .error .noSuchAxis ↔
      w.extractLsb' 28 4 = 3#4 ∧ w.extractLsb' 19 9 = 0#9 ∧ w.extractLsb' 0 8 = 0#8 ∧ 5#3 < w.extractLsb' 16 3) ∧
    (decode w = .error .noTransferForm ↔
      w.extractLsb' 28 4 = 1#4 ∧ w.extractLsb' 0 8 = 0#8 ∧ w &&& 0xF90100FF#32 ≠ 0x11000000#32 ∧
        w &&& 0xF101FFFF#32 ≠ 0x11010000#32 ∧ w ≠ 0x14000000#32)

/-- Words of 30_encoding.md section 7 and of 95_test_vectors.md V6. -/
def Obligations.WorkedEncodingsDecode : Prop :=
  decode 0x13D06B00 = .ok (.wrb 0x68 0x6B true false) ∧ decode 0x1BD10000 = .ok (.rdb 0x68 true true false) ∧
    decode 0x14000000 = .ok .fstop ∧ decode 0x20000000 = .ok .init ∧ decode 0x30054500 = .ok (.rdax 5 0x45) ∧
    decode 0x40000000 = .ok .clsfy ∧ decode 0x50000000 = .ok .cycle ∧ decode 0x60000000 = .ok .run ∧
    decode 0x1BD06B00 = .error .noTransferForm ∧ decode 0x30063B00 = .error .noSuchAxis

/-- R26: `XD` is bit for bit the field `W[27:8]` of the Format T word of the operation. -/
def Obligations.DescriptorIsFieldOfCommandWord : Prop :=
  ∀ (sa : SlaveAddr) (data : Byte) (start stop ack : Bool),
    (BusReq.of sa .write data start stop false).descriptor = (encode (.wrb sa data start stop)).extractLsb' 8 20 ∧
    (BusReq.of sa .read data start stop ack).descriptor = (encode (.rdb sa start ack stop)).extractLsb' 8 20

/-- R102: a call expanded at the point where the program stands never raises SequenceError. -/
def Obligations.ExpandedCallsNeverRaiseSequenceError : Prop :=
  ∀ (s t : State) (c : Contract),
    exec (c.expand (if s.status.held then some s.status.hdir else none)) s = .next t → t.status.seqf = s.status.seqf

/-! ### The host interface (10_state.md) -/

/-- What an idle machine does with a command word that decodes: exec of the instruction, at the state without that host
action; and `withFetchWord` presents the word that way. -/
def Obligations.StepRunsTheDecodedCommand : Prop :=
  (∀ (s : State) (w : Word) (rest : List HostAction) (i : Instr),
    s.status.busy = false → decode w = .ok i →
      step { s with host := .write 0 w :: rest } = exec i { s with host := rest }) ∧
  (∀ (s : State) (w : Nat) (i : Instr),
    s.status.busy = false → w < 2 ^ 32 → decodeTableWord 32 w = some i → step (s.withFetchWord 32 w) = exec i s)

/-- R214, R96: an illegal word sets `ILL` and `FAIL` and changes nothing else; so does RDAX with `D` = 6 or 7 given to
exec as a term (that form is the model's, log entry 16). -/
def Obligations.IllegalCommandSetsIllAndFail : Prop :=
  (∀ (s : State) (w : Word) (rest : List HostAction) (e : DecodeError),
    s.status.busy = false → decode w = .error e →
      step { s with host := .write 0 w :: rest } =
        .next { s with host := rest, status := { s.status with ill := true, fail := true } }) ∧
  (∀ (s : State) (d : BitVec 3) (reg : Byte), 5#3 < d →
    exec (.rdax d reg) s = .next { s with status := { s.status with ill := true, fail := true } })

/-- R37, R39: while `BUSY` = 1 a command word and a register write are lost. -/
def Obligations.BusyMachineLosesHostWrites : Prop :=
  ∀ (s : State) (n : BitVec 8) (w : Word) (rest : List HostAction), s.status.busy = true →
    step { s with host := .write n w :: rest } = .next { s with host := rest }

/-- R39: what a register write of an idle machine does, as every register read then shows. -/
def Obligations.IdleRegisterWriteReachesFrameAndPrior : Prop :=
  ∀ (s : State) (n : BitVec 8) (w : Word) (rest : List HostAction), s.status.busy = false → n ≠ 0 →
    ∃ t, step { s with host := .write n w :: rest } = .next t ∧
      t = { s with host := rest, f := t.f, p := t.p } ∧
      ∀ m : BitVec 8, t.portRead m =
        if m = n ∧ 6 ≤ n.toNat ∧ n.toNat ≤ 14 then (w.setWidth 16).setWidth 32 else s.portRead m

/-- R38: a register read returns the register right-aligned, has no other effect, and is allowed at any time. That the
word is appended to `portOut` is the model's (log entry 5). -/
def Obligations.RegisterReadReturnsTheRegister : Prop :=
  ∀ (s : State) (n : BitVec 8) (rest : List HostAction),
    ∃ v, step { s with host := .read n :: rest } = .next { s with host := rest, portOut := s.portOut ++ [v] } ∧
      (n = 1 → v = s.status.toWord) ∧ (n = 2 → v = s.cls.toWord) ∧ (n = 3 → v = s.seq.toWord) ∧
      (n = 4 → v = s.dr.setWidth 32) ∧ (n = 5 → v = s.xd.setWidth 32) ∧
      (∀ i : Axis, n.toNat = 6 + i.number.toNat → v = (s.f.get i).setWidth 32) ∧
      (n = 12 → v = s.p.x.setWidth 32) ∧ (n = 13 → v = s.p.y.setWidth 32) ∧ (n = 14 → v = s.p.z.setWidth 32) ∧
      (n = 0 ∨ 15 ≤ n.toNat → v = 0)

/-- R28, R37, R38, R39, R256: the host inside a command, or inside a cycle of RUN's loop. A read at any line gives the
register as it stands there and leaves the command's outcome alone; a write, a command word among them, is lost: `BUSY`
is 1 at every line after the acceptance. -/
def Obligations.HostActsInsideACommandLeaveItAlone : Prop :=
  (∀ (s : State) (w : Word) (rest : List HostAction),
    step { s with host := .during (some w) [] :: rest } = step { s with host := .write 0 w :: rest } ∧
    step { s with host := .during none [] :: rest } = step { s with host := .wait :: rest }) ∧
  (∀ (s : State) (word : Option Word) (k : Nat) (n : BitVec 8) (w : Word) (rest : List HostAction),
    step { s with host := .during word [(k, .write n w)] :: rest } =
      step { s with host := .during word [] :: rest }) ∧
  (∀ (s : State) (word : Option Word) (k : Nat) (n : BitVec 8) (rest : List HostAction) (t : State),
    (s.work word).point (1 + k) { s with host := rest } = some t →
    ∃ u, step { s with host := .during word [] :: rest } = .next u ∧ u.portOut = s.portOut ∧
      step { s with host := .during word [(k, .read n)] :: rest } =
        .next { u with portOut := s.portOut ++ [t.portRead n] }) ∧
  (∀ (s t : State) (i : Instr) (k : Nat), (program i).point (1 + k) s = some t → t.status.busy = true) ∧
  ∀ (s t : State) (k : Nat), s.Looping → cycle.point k s = some t → t.status.busy = true

/-- R23, R256: after the read of each axis of a CYCLE there is a line at which the frame is half new and half old: the
axes read so far have their new samples (the old one where the read failed), the others the previous cycle's. -/
def Obligations.FrameInsideACycleIsHalfOldHalfNew : Prop :=
  ∀ (s : State) (o : PerAxis AxisAnswers) (b : Bus) (i : Axis),
    s.bus.Serves (asAnswers (cycleExchange s.params o)) b →
    ∃ k t, (program .cycle).point (1 + k) s = some t ∧
      ∀ j, t.f.get j = if j.number ≤ i.number then ((o.get j).sample).getD (s.f.get j) else s.f.get j

/-- The layouts of R27, R32 and R33, and the code values of R32 and R33. -/
def Obligations.StatusClassAndSeqLayouts : Prop :=
  (∀ t : Status,
    t.toWord.getLsbD 0 = t.busy ∧ t.toWord.getLsbD 1 = t.xbusy ∧ t.toWord.getLsbD 2 = t.err ∧
    t.toWord.getLsbD 3 = t.nack ∧ t.toWord.getLsbD 4 = t.arblst ∧ t.toWord.getLsbD 5 = t.held ∧
    t.toWord.getLsbD 6 = decide (t.hdir = .read) ∧ t.toWord.getLsbD 7 = t.fail ∧ t.toWord.getLsbD 8 = t.initok ∧
    t.toWord.getLsbD 9 = t.initfail ∧ t.toWord.getLsbD 10 = t.ill ∧ t.toWord.getLsbD 11 = t.seqf ∧
    t.toWord.getLsbD 12 = t.halt ∧ (∀ i : Axis, t.toWord.getLsbD (13 + i.number.toNat) = t.deg.get i) ∧
    t.toWord.extractLsb' 19 13 = 0) ∧
  (∀ c : Classes,
    c.toWord.extractLsb' 0 3 =
      (match c.orient with | .idle => 0 | .axisX => 1 | .axisY => 2 | .axisZ => 3 | .noDominant => 4) ∧
    c.toWord.getLsbD 3 = c.impact.x ∧ c.toWord.getLsbD 4 = c.impact.y ∧ c.toWord.getLsbD 5 = c.impact.z ∧
    c.toWord.extractLsb' 6 2 = (match c.lamp with | .off => 0 | .x => 1 | .y => 2 | .z => 3) ∧
    c.toWord.extractLsb' 8 24 = 0) ∧
  (∀ q : Seq,
    q.toWord.extractLsb' 0 4 =
      (match q.top with
        | .none => 0 | .xfer => 1 | .init => 2 | .rdax => 3 | .clsfy => 4 | .cycle => 5 | .run => 6) ∧
    q.toWord.extractLsb' 4 4 = (match q.step with | .op0 => 0 | .op1 => 1 | .op2 => 2) ∧
    q.toWord.extractLsb' 8 3 =
      (match q.axi with
        | .accelX => 0 | .accelY => 1 | .accelZ => 2 | .gyroX => 3 | .gyroY => 4 | .gyroZ => 5) ∧
    q.toWord.extractLsb' 11 3 =
      (match q.phase with | .idle => 0 | .issue => 1 | .wait => 2 | .check => 3 | .abort => 4) ∧
    q.toWord.extractLsb' 14 18 = 0)

/-- R34, R122, R226, R240: a hung or halted machine is left by reset only; any other step changes nothing but the
host's pending actions and the words the port returned (the model's own fields, log entries 4 and 5). -/
def Obligations.OnlyResetLeavesHungAndHalted : Prop :=
  ∀ s t : State, s.Hung ∨ s.Halted → s.NoReset → step s = .next t →
    t = { s with host := t.host, portOut := t.portOut }

/-- R34: at a quiescent point, idle, hung or halted, CDSEQ takes no step by itself: when the host does nothing, the
state stays. (That this is a step is the model's, log entries 4 and 6.) So it does with `during none`, whatever acts are
listed: that clause is the model's alone (log entry 2: an act after the last line does not happen, and here there is no
line); a reset or a read at a quiescent point is an action of its own. -/
def Obligations.QuiescentMachineTakesNoStep : Prop :=
  ∀ s : State, s.Quiescent →
    (s.host = [] → step s = .next s) ∧
    ∀ rest, (s.host = .wait :: rest ∨ ∃ acts, s.host = .during none acts :: rest) →
      step s = .next { s with host := rest }

/-- R8: a parameter is constant, under every step, reset among them. -/
def Obligations.StepsKeepParameters : Prop :=
  ∀ s t : State, step s = .next t → t.params = s.params

/-- R232: no step but a reset clears `ILL`, `SEQF`, `INITFAIL` or `HALT`. -/
def Obligations.StickyBitsSurviveEveryCommand : Prop :=
  ∀ s t : State, s.NoReset → step s = .next t →
    (s.status.ill = true → t.status.ill = true) ∧ (s.status.seqf = true → t.status.seqf = true) ∧
    (s.status.initfail = true → t.status.initfail = true) ∧ (s.status.halt = true → t.status.halt = true)

/-! ### The Bus Transaction Engine (40_bus_engine.md) -/

/-- R121: a WRB or RDB without `S` that finds no open transaction of its direction raises SequenceError: `SEQF` and
`FAIL`, no event, and (R35) `STEP` <- 0. One with `S` never does, whatever is open and whatever the slave address. -/
def Obligations.UnmatchedContinuationRaisesSequenceError : Prop :=
  (∀ (s : State) (sa : SlaveAddr) (data : Byte) (stop : Bool), ¬ (s.status.held = true ∧ s.status.hdir = .write) →
    exec (.wrb sa data false stop) s =
      .next { s with status := { s.status with busy := false, seqf := true, fail := true }
                     seq := { s.seq with top := .none, step := .op0 } }) ∧
  (∀ (s : State) (sa : SlaveAddr) (ack stop : Bool), ¬ (s.status.held = true ∧ s.status.hdir = .read) →
    exec (.rdb sa false ack stop) s =
      .next { s with status := { s.status with busy := false, seqf := true, fail := true }
                     seq := { s.seq with top := .none, step := .op0 } }) ∧
  (∀ (s t : State) (sa : SlaveAddr) (data : Byte) (stop : Bool),
    exec (.wrb sa data true stop) s = .next t → t.status.seqf = s.status.seqf) ∧
  (∀ (s t : State) (sa : SlaveAddr) (ack stop : Bool),
    exec (.rdb sa true ack stop) s = .next t → t.status.seqf = s.status.seqf)

/-- R120, R124, R125, R128: a byte operation that completes without error. WRB leaves `DR` = the byte sent, RDB the byte
received; `HELD` is the complement of `stop`. -/
def Obligations.ByteOperationCompletes : Prop :=
  (∀ (s : State) (sa : SlaveAddr) (data rdata : Byte) (start stop : Bool) (b : Bus),
    start = true ∨ (s.status.held = true ∧ s.status.hdir = .write) →
    s.bus.answer ⟨sa, .write, data, start, stop, false⟩ = (.complete false false rdata, b) →
    exec (.wrb sa data start stop) s =
      .next { s with
        dr := data
        xd := (encode (.wrb sa data start stop)).extractLsb' 8 20
        status := { s.status with busy := false, xbusy := false, err := false, nack := false, arblst := false
                                  held := !stop, hdir := .write, fail := false }
        seq := { s.seq with top := .none, step := .op0, phase := .idle }
        events := s.events ++ [.busReq ⟨sa, .write, data, start, stop, false⟩, .busResp false false rdata]
        bus := b }) ∧
  (∀ (s : State) (sa : SlaveAddr) (rdata : Byte) (start ack stop : Bool) (b : Bus),
    start = true ∨ (s.status.held = true ∧ s.status.hdir = .read) →
    s.bus.answer ⟨sa, .read, 0, start, stop, ack⟩ = (.complete false false rdata, b) →
    exec (.rdb sa start ack stop) s =
      .next { s with
        dr := rdata
        xd := (encode (.rdb sa start ack stop)).extractLsb' 8 20
        status := { s.status with busy := false, xbusy := false, err := false, nack := false, arblst := false
                                  held := !stop, hdir := .read, fail := false }
        seq := { s.seq with top := .none, step := .op0, phase := .idle }
        events := s.events ++ [.busReq ⟨sa, .read, 0, start, stop, ack⟩, .busResp false false rdata]
        bus := b })

/-- R120, R123, R128, R211: a byte operation that completes with an error, whatever its `stop` flag: the cause bits as
reported, one forced stop, `HELD` = 0; a read leaves `DR` as it was; `HDIR` is unchanged.
(That a forced stop leaves the bus environment as the answer left it is the model's, log entry 14.) -/
def Obligations.ErroredByteOperationForcesStop : Prop :=
  (∀ (s : State) (sa : SlaveAddr) (data rdata : Byte) (start stop nack arb : Bool) (b : Bus),
    start = true ∨ (s.status.held = true ∧ s.status.hdir = .write) → nack = true ∨ arb = true →
    s.bus.answer ⟨sa, .write, data, start, stop, false⟩ = (.complete nack arb rdata, b) →
    exec (.wrb sa data start stop) s =
      .next { s with
        dr := data
        xd := (encode (.wrb sa data start stop)).extractLsb' 8 20
        status := { s.status with busy := false, xbusy := false, err := true, nack := nack, arblst := arb
                                  held := false, fail := true }
        seq := { s.seq with top := .none, step := .op0, phase := .idle }
        events := s.events ++
          [.busReq ⟨sa, .write, data, start, stop, false⟩, .busResp nack arb rdata, .busStop true]
        bus := b }) ∧
  (∀ (s : State) (sa : SlaveAddr) (rdata : Byte) (start ack stop nack arb : Bool) (b : Bus),
    start = true ∨ (s.status.held = true ∧ s.status.hdir = .read) → nack = true ∨ arb = true →
    s.bus.answer ⟨sa, .read, 0, start, stop, ack⟩ = (.complete nack arb rdata, b) →
    exec (.rdb sa start ack stop) s =
      .next { s with
        xd := (encode (.rdb sa start ack stop)).extractLsb' 8 20
        status := { s.status with busy := false, xbusy := false, err := true, nack := nack, arblst := arb
                                  held := false, fail := true }
        seq := { s.seq with top := .none, step := .op0, phase := .idle }
        events := s.events ++ [.busReq ⟨sa, .read, 0, start, stop, ack⟩, .busResp nack arb rdata, .busStop true]
        bus := b })

/-- R122: the oracle answers `Never`: the hung point of R34 with `TOP` = 1, no `BusResp`, no forced stop, `HELD` as it
was. -/
def Obligations.UnansweredByteOperationHangs : Prop :=
  (∀ (s : State) (sa : SlaveAddr) (data : Byte) (start stop : Bool) (b : Bus),
    start = true ∨ (s.status.held = true ∧ s.status.hdir = .write) →
    s.bus.answer ⟨sa, .write, data, start, stop, false⟩ = (.never, b) →
    exec (.wrb sa data start stop) s =
      .next { s with
        dr := data
        xd := (encode (.wrb sa data start stop)).extractLsb' 8 20
        status := { s.status with busy := true, xbusy := true, err := false, nack := false, arblst := false }
        seq := { s.seq with top := .xfer, step := .op0, phase := .wait }
        events := s.events ++ [.busReq ⟨sa, .write, data, start, stop, false⟩]
        bus := b }) ∧
  (∀ (s : State) (sa : SlaveAddr) (start ack stop : Bool) (b : Bus),
    start = true ∨ (s.status.held = true ∧ s.status.hdir = .read) →
    s.bus.answer ⟨sa, .read, 0, start, stop, ack⟩ = (.never, b) →
    exec (.rdb sa start ack stop) s =
      .next { s with
        xd := (encode (.rdb sa start ack stop)).extractLsb' 8 20
        status := { s.status with busy := true, xbusy := true, err := false, nack := false, arblst := false }
        seq := { s.seq with top := .xfer, step := .op0, phase := .wait }
        events := s.events ++ [.busReq ⟨sa, .read, 0, start, stop, ack⟩]
        bus := b })

/-- R35, R123, R126: FSTOP emits one forced stop, whatever `HELD` is, and writes `HELD`, `FAIL` and `PHASE` only, `BUSY` and
`TOP` being those of an idle machine (R35). That the bus environment stays, with the optional sensor's pointer and latch,
is the model's (log entry 14; I16 leaves it open). -/
def Obligations.FstopReleasesTheBus : Prop :=
  ∀ s : State, exec .fstop s =
    .next { s with status := { s.status with busy := false, held := false, fail := false }
                   seq := { s.seq with top := .none, phase := .idle }
                   events := s.events ++ [.busStop true] }

/-! ### The Sensor Protocol Driver (41_sensor_driver.md) -/

/-- R143: the pattern is `{hi, lo}` and its signed value is `256*hi + lo`, less 65536 when `hi` is 0x80 or more. -/
def Obligations.UnpackIsMostSignificantFirst : Prop :=
  ∀ hi lo : Byte,
    (unpack hi lo).toNat = 256 * hi.toNat + lo.toNat ∧
    (unpack hi lo).toInt =
      if hi.toNat < 0x80 then (256 * hi.toNat + lo.toNat : Int) else (256 * hi.toNat + lo.toNat : Int) - 65536

/-- R140, R141: INIT when both byte operations succeed. -/
def Obligations.InitWakesTheSensor : Prop :=
  ∀ (s : State) (c0 c1 : Byte) (b : Bus),
    s.bus.Serves [(powerReq s.params, .complete false false c0), (wakeReq s.params, .complete false false c1)] b →
    exec .init s =
      .next { s with
        dr := s.params.wakeVal
        xd := (encode (.wrb s.params.slaveAddr s.params.wakeVal false true)).extractLsb' 8 20
        status := { s.status with busy := false, xbusy := false, err := false, nack := false, arblst := false
                                  held := false, hdir := .write, fail := false, initok := true }
        seq := { s.seq with top := .none, step := .op1, phase := .idle }
        events := s.events ++ [.busReq (powerReq s.params), .busResp false false c0,
                               .busReq (wakeReq s.params), .busResp false false c1]
        bus := b }

/-- R140, R141, R212: INIT when one of its operations ends in an error: the sequence ends there, `INITFAIL` and `FAIL`
are set and `INITOK` is clear; when operation 0 fails, operation 1 is never issued.
(That a forced stop leaves the bus environment as the answer left it is the model's, log entry 14.) -/
def Obligations.FailedInitAbortsAndIsRecorded : Prop :=
  (∀ (s : State) (c : Completion) (b : Bus), c.isError = true →
    s.bus.Serves [(powerReq s.params, c.answer)] b →
    exec .init s =
      .next { s with
        dr := s.params.pwrReg
        xd := (encode (.wrb s.params.slaveAddr s.params.pwrReg true false)).extractLsb' 8 20
        status := { s.status with busy := false, xbusy := false, err := true, nack := c.nack, arblst := c.arb
                                  held := false, fail := true, initok := false, initfail := true }
        seq := { s.seq with top := .none, step := .op0, phase := .idle }
        events := s.events ++ exchangeEvents [(powerReq s.params, c)]
        bus := b }) ∧
  (∀ (s : State) (c0 c1 : Completion) (b : Bus), c0.isError = false → c1.isError = true →
    s.bus.Serves [(powerReq s.params, c0.answer), (wakeReq s.params, c1.answer)] b →
    exec .init s =
      .next { s with
        dr := s.params.wakeVal
        xd := (encode (.wrb s.params.slaveAddr s.params.wakeVal false true)).extractLsb' 8 20
        status := { s.status with busy := false, xbusy := false, err := true, nack := c1.nack, arblst := c1.arb
                                  held := false, hdir := .write, fail := true, initok := false, initfail := true }
        seq := { s.seq with top := .none, step := .op1, phase := .idle }
        events := s.events ++ exchangeEvents [(powerReq s.params, c0), (wakeReq s.params, c1)]
        bus := b })

/-- R142, R144: RDAX when all three byte operations succeed: `F[d]` <- `{hi, lo}`, `DEG[d]` <- 0; every other frame
register and flag as before; the three operations stand next to one another in the history (R147). -/
def Obligations.RdaxLoadsTheSample : Prop :=
  ∀ (s : State) (i : Axis) (reg c hi lo : Byte) (b : Bus),
    s.bus.Serves [(selectReq s.params.slaveAddr reg, .complete false false c),
      (highReq s.params.slaveAddr, .complete false false hi),
      (lowReq s.params.slaveAddr, .complete false false lo)] b →
    exec (.rdax i.number reg) s =
      .next { s with
        f := s.f.set i (hi ++ lo)
        dr := lo
        xd := (encode (.rdb s.params.slaveAddr false false true)).extractLsb' 8 20
        status := { s.status with busy := false, xbusy := false, err := false, nack := false, arblst := false
                                  held := false, hdir := .read, fail := false, deg := s.status.deg.set i false }
        seq := { s.seq with top := .none, step := .op2, phase := .idle }
        events := s.events ++ [.busReq (selectReq s.params.slaveAddr reg), .busResp false false c,
                               .busReq (highReq s.params.slaveAddr), .busResp false false hi,
                               .busReq (lowReq s.params.slaveAddr), .busResp false false lo]
        bus := b }

/-- R144, R146, R213: RDAX when one of its operations ends in an error: the sequence ends there with one forced stop,
`F` is unchanged, `DEG[d]` and `FAIL` are set.
(That a forced stop leaves the bus environment as the answer left it is the model's, log entry 14.) -/
def Obligations.FailedRdaxKeepsTheOldSample : Prop :=
  ∀ (s : State) (i : Axis) (reg : Byte) (o : AxisAnswers) (b : Bus), o.sample = none →
    s.bus.Serves (asAnswers (o.exchange s.params.slaveAddr reg)) b →
    exec (.rdax i.number reg) s =
      .next { s with
        dr := o.finalDr reg
        xd := (o.last s.params.slaveAddr reg).1.descriptor
        status := { s.status with
          busy := false, xbusy := false, err := true, held := false, hdir := o.finalDir s.status.hdir, fail := true
          nack := (o.last s.params.slaveAddr reg).2.nack
          arblst := (o.last s.params.slaveAddr reg).2.arb
          deg := s.status.deg.set i true }
        seq := { s.seq with top := .none, step := o.lastStep, phase := .idle }
        events := s.events ++ exchangeEvents (o.exchange s.params.slaveAddr reg)
        bus := b }

/-- R122, R34, R226: INIT, RDAX and RUN when an operation of theirs is never answered: the hung point, with the
operations before it done, its request the last event, and no outcome recorded. -/
def Obligations.UnansweredDriverOperationHangs : Prop :=
  (∀ (s : State) (i : Instr) (x : List (BusReq × Completion)) (q : BusReq) (b : Bus),
    i = .init ∨ i = .run → s.status.halt = false → (∀ e ∈ x, e.2.isError = false) →
    ((x = [] ∧ q = powerReq s.params) ∨ (∃ c, x = [(powerReq s.params, c)] ∧ q = wakeReq s.params)) →
    s.bus.Serves (asAnswers x ++ [(q, .never)]) b →
    ∃ t, exec i s = .next t ∧ t.Hung ∧ t.seq.top = (if i = .init then .init else .run) ∧
      t.seq.step = (if x = [] then .op0 else .op1) ∧
      t.events = s.events ++ exchangeEvents x ++ [.busReq q] ∧ t.xd = q.descriptor ∧ t.dr = q.data ∧ t.bus = b ∧
      t.status.fail = s.status.fail ∧ t.status.initfail = s.status.initfail ∧ t.status.initok = false) ∧
  (∀ (s : State) (i : Axis) (reg : Byte) (x : List (BusReq × Completion)) (q : BusReq) (b : Bus),
    s.status.halt = false → (∀ e ∈ x, e.2.isError = false) →
    ((x = [] ∧ q = selectReq s.params.slaveAddr reg) ∨
      (∃ c, x = [(selectReq s.params.slaveAddr reg, c)] ∧ q = highReq s.params.slaveAddr) ∨
      (∃ c d, x = [(selectReq s.params.slaveAddr reg, c), (highReq s.params.slaveAddr, d)] ∧
        q = lowReq s.params.slaveAddr)) →
    s.bus.Serves (asAnswers x ++ [(q, .never)]) b →
    ∃ t, exec (.rdax i.number reg) s = .next t ∧ t.Hung ∧ t.seq.top = .rdax ∧
      t.seq.step.code.toNat = x.length ∧
      t.events = s.events ++ exchangeEvents x ++ [.busReq q] ∧ t.xd = q.descriptor ∧ t.bus = b ∧
      t.f = s.f ∧ t.status.deg = s.status.deg ∧ t.status.fail = s.status.fail)

/-- R148: no driver sequence raises SequenceError, in any state; so none of INIT, RDAX, CYCLE, RUN and RUN's loop
does. -/
def Obligations.DriverSequencesNeverRaiseSequenceError : Prop :=
  (∀ (i : Instr) (s t : State), (i = .init ∨ (∃ d reg, i = .rdax d reg) ∨ i = .cycle ∨ i = .run) →
    exec i s = .next t → t.status.seqf = s.status.seqf) ∧
  ∀ s t : State, s.host = [] → step s = .next t → t.status.seqf = s.status.seqf

/-- R102, 95_test_vectors.md P3: the three XFER commands of the expansion of `readAxis` put on the bus what RDAX puts
there, and leave `HELD`, `HDIR`, `XD` and `DR` as RDAX leaves them; the frame is not written. -/
def Obligations.ComposedReadEqualsRdaxOnTheBus : Prop :=
  ∀ (s : State) (i : Axis) (reg c hi lo : Byte) (b : Bus),
    s.bus.Serves [(selectReq s.params.slaveAddr reg, .complete false false c),
      (highReq s.params.slaveAddr, .complete false false hi),
      (lowReq s.params.slaveAddr, .complete false false lo)] b →
    ∃ t u v w, exec (.rdax i.number reg) s = .next t ∧
      exec (.wrb s.params.slaveAddr reg true false) s = .next u ∧
      exec (.rdb s.params.slaveAddr true true false) u = .next v ∧
      exec (.rdb s.params.slaveAddr false false true) v = .next w ∧
      w.events = t.events ∧ w.bus = t.bus ∧ w.xd = t.xd ∧ w.dr = t.dr ∧
      w.status = { t.status with deg := s.status.deg } ∧ v.dr = hi ∧ w.f = s.f

/-- R61, R63, R68, R69: with the optional sensor answering, RDAX reads the cell at `reg` and then the next one, most
significant byte first. The sensor is the model's (log entry 9), CDSEQ's rules do not depend on it. -/
def Obligations.RdaxReadsTwoConsecutiveCells : Prop :=
  ∀ (s : State) (n : Sensor) (i : Axis) (reg : Byte),
    s.bus.script = [] → s.bus.sensor = some n → n.addr = s.params.slaveAddr → reg ≠ 0xFF →
    ∃ t, exec (.rdax i.number reg) s = .next t ∧ t.status.fail = false ∧
      t.f = s.f.set i (n.cells.read reg.toNat ++ n.cells.read (reg.toNat + 1))

/-- R61, R68, R141: with the optional sensor answering, INIT stores `WAKE_VAL` in the cell at `PWR_REG` and no other cell
changes. The sensor is the model's (log entry 9). -/
def Obligations.InitStoresTheWakeValueInTheSensor : Prop :=
  ∀ (s : State) (n : Sensor),
    s.bus.script = [] → s.bus.sensor = some n → n.addr = s.params.slaveAddr → n.cells.wf = true →
    ∃ t m, exec .init s = .next t ∧ t.status.initok = true ∧ t.bus.sensor = some m ∧ m.cells.wf = true ∧
      ∀ a, m.cells.read a = if a = s.params.pwrReg.toNat then s.params.wakeVal else n.cells.read a

/-- R68, R121: a byte operation without a start carries no address: whatever its `sa`, it joins the open transaction. With
the optional sensor (log entry 9), a continued write stores in the sensor when the open transaction was addressed to it,
and reaches none of its cells when it was addressed elsewhere. -/
def Obligations.ContinuationJoinsTheOpenTransaction : Prop :=
  ∀ (s : State) (n : Sensor) (sa : SlaveAddr) (data : Byte) (stop : Bool),
    s.bus.script = [] → s.bus.sensor = some n → n.cells.wf = true → s.status.held = true → s.status.hdir = .write →
    ∃ t m, exec (.wrb sa data false stop) s = .next t ∧ t.bus.sensor = some m ∧ m.addr = n.addr ∧ m.ptr = n.ptr ∧
      ∀ a, m.cells.read a = if n.addressed = true ∧ a = n.ptr.toNat then data else n.cells.read a

/-! ### The classifier (43_classifier.md) -/

/-- R180, R181, R186, R190, R191, R192: CLSFY, for every state. The flags and the orientation themselves are the subject
of the statements after this one. -/
def Obligations.ClsfyClassifiesTheFrame : Prop :=
  ∀ s : State,
    exec .clsfy s =
      .next { s with
        p := ⟨s.f.accelX, s.f.accelY, s.f.accelZ⟩
        cls := { orient := orientResult s.params s.f.accel
                 impact := impactFlags s.params s.f.accel s.p
                 lamp := (orientResult s.params s.f.accel).lamp }
        status := { s.status with busy := false, fail := false }
        seq := { s.seq with top := .none }
        events := s.events ++
          classifyEvents s.params (impactFlags s.params s.f.accel s.p) (orientResult s.params s.f.accel) }

/-- R184: the orientation a CLSFY leaves, from the magnitudes and the band; both edges of the band included, the other
two axes strictly below it; with `ORIENT_EN` = 0 it is Idle, the lamp off and no event but the blinking of flagged axes
is emitted. -/
def Obligations.OrientationIsTheDominantAxis : Prop :=
  ∀ (s t : State), exec .clsfy s = .next t →
    let m := fun v : Sample => v.toInt.natAbs
    let inb := fun v : Sample => s.params.bandLo.toNat ≤ m v ∧ m v ≤ s.params.bandHi.toNat
    let low := fun v : Sample => m v < s.params.bandLo.toNat
    let x := s.f.accelX
    let y := s.f.accelY
    let z := s.f.accelZ
    (s.params.orientEn = true →
      (t.cls.orient = .axisX ↔ inb x ∧ low y ∧ low z) ∧
      (t.cls.orient = .axisY ↔ inb y ∧ low x ∧ low z) ∧
      (t.cls.orient = .axisZ ↔ inb z ∧ low x ∧ low y) ∧
      (t.cls.orient = .noDominant ↔
        ¬ (inb x ∧ low y ∧ low z) ∧ ¬ (inb y ∧ low x ∧ low z) ∧ ¬ (inb z ∧ low x ∧ low y)) ∧
      t.cls.lamp = (match t.cls.orient with | .axisX => .x | .axisY => .y | .axisZ => .z | _ => .off) ∧
      ∃ es, t.events = s.events ++ es ++ [.lamp t.cls.lamp]) ∧
    (s.params.orientEn = false →
      t.cls.orient = .idle ∧ t.cls.lamp = .off ∧
      t.events = s.events
        ++ (if t.cls.impact.x then blinkEvents .x s.params.blinkDelay s.params.blinkCount.toNat else [])
        ++ (if t.cls.impact.y then blinkEvents .y s.params.blinkDelay s.params.blinkCount.toNat else [])
        ++ (if t.cls.impact.z then blinkEvents .z s.params.blinkDelay s.params.blinkCount.toNat else []))

/-- R185: at most one axis meets its condition, so the order X, Y, Z cannot be observed: testing the axes in any order
gives the same orientation. -/
def Obligations.OrderOfTestsCannotBeObserved : Prop :=
  ∀ (params : Params) (a : Triple Sample),
    let cond := fun i : Accel =>
      inBand params (a.get i) && Accel.all.all fun j => j == i || belowBand params (a.get j)
    (∀ i j, cond i = true → cond j = true → i = j) ∧
    ∀ order : List Accel, (∀ i, i ∈ order) →
      orientation params a =
        match order.find? cond with
        | some .x => .axisX
        | some .y => .axisY
        | some .z => .axisZ
        | none => .noDominant

/-- R187: under `POLICY` = ABS the flag of an axis is set exactly when its magnitude is strictly greater than
`IMPACT_THR`; with the thresholds of the source's example 30000 raises an event and 20000 does not. -/
def Obligations.AbsolutePolicyFlagsLargeMagnitudes : Prop :=
  (∀ s t : State, s.params.policy = .abs → exec .clsfy s = .next t →
    (t.cls.impact.x = true ↔ s.f.accelX.toInt.natAbs > s.params.impactThr.toNat) ∧
    (t.cls.impact.y = true ↔ s.f.accelY.toInt.natAbs > s.params.impactThr.toNat) ∧
    (t.cls.impact.z = true ↔ s.f.accelZ.toInt.natAbs > s.params.impactThr.toNat)) ∧
  ∀ (params : Params) (prior : Sample), params.policy = .abs → params.impactThr = 29491 →
    impactHit params 30000 prior = true ∧ impactHit params 20000 prior = false

/-- R188: under `POLICY` = DELTA the flag of an axis is set exactly when the exact difference from the prior sample is,
in absolute value, strictly greater than `DELTA_THR`; with `DELTA_THR` = 65535 none is ever set; the prior frame is
overwritten (R192) by the current triple. -/
def Obligations.DeltaPolicyFlagsLargeChanges : Prop :=
  ∀ s t : State, s.params.policy = .delta → exec .clsfy s = .next t →
    (t.cls.impact.x = true ↔ (s.f.accelX.toInt - s.p.x.toInt).natAbs > s.params.deltaThr.toNat) ∧
    (t.cls.impact.y = true ↔ (s.f.accelY.toInt - s.p.y.toInt).natAbs > s.params.deltaThr.toNat) ∧
    (t.cls.impact.z = true ↔ (s.f.accelZ.toInt - s.p.z.toInt).natAbs > s.params.deltaThr.toNat) ∧
    (s.params.deltaThr = 65535 → t.cls.impact = ⟨false, false, false⟩) ∧
    t.p = ⟨s.f.accelX, s.f.accelY, s.f.accelZ⟩

/-- R193, R196: what a classification leaves in `CLASS` does not depend on the gyroscope samples; the orientation and
the lamp do not depend on the prior frame; nor do the impact flags unless `POLICY` = DELTA. -/
def Obligations.ClassificationIgnoresGyroscopeAndMemory : Prop :=
  ∀ s s' t t' : State, s.params = s'.params → s.f.accelX = s'.f.accelX → s.f.accelY = s'.f.accelY →
    s.f.accelZ = s'.f.accelZ → exec .clsfy s = .next t → exec .clsfy s' = .next t' →
    t.cls.orient = t'.cls.orient ∧ t.cls.lamp = t'.cls.lamp ∧ t.p = t'.p ∧
    (s.params.policy ≠ .delta ∨ s.p = s'.p → t.cls.impact = t'.cls.impact)

/-- R253: the blink sequences of a classification hold `2 * BLINK_COUNT` delays for each flagged axis, and nothing else
of it delays. -/
def Obligations.BlinkingDelaysTwiceTheCountPerAxis : Prop :=
  ∀ s t : State, exec .clsfy s = .next t →
    ∃ es, t.events = s.events ++ es ∧
      es.countP (fun e => e == .delay s.params.blinkDelay) =
        2 * s.params.blinkCount.toNat * (t.cls.impact.x.toNat + t.cls.impact.y.toNat + t.cls.impact.z.toNat) ∧
      ∀ e ∈ es, (∃ code, e = .lamp code) ∨ e = .delay s.params.blinkDelay

/-! ### The Sampling Cycle (42_sampling_cycle.md) -/

/-- R166: the digits of a value in range: only digits, the right value, no leading zero, a minus sign in front of the
digits of `-v` when negative. -/
def Obligations.DecimalTextIsStandardBaseTen : Prop :=
  ∀ v : Int, -32768 ≤ v → v ≤ 32767 →
    (0 ≤ v →
      (∀ c ∈ dec v, 0x30 ≤ c.toNat ∧ c.toNat ≤ 0x39) ∧
      ((dec v).foldl (fun acc c => 10 * acc + (c.toNat - 0x30)) 0 : Nat) = v ∧
      dec v ≠ [] ∧ ((dec v).head? = some 0x30 → dec v = [0x30])) ∧
    (v < 0 → dec v = 0x2D :: dec (-v) ∧
      (∀ c ∈ dec (-v), 0x30 ≤ c.toNat ∧ c.toNat ≤ 0x39) ∧
      ((dec (-v)).foldl (fun acc c => 10 * acc + (c.toNat - 0x30)) 0 : Nat) = -v ∧
      (dec (-v)).head? ≠ some 0x30)

/-- R165: the report line of either field set, as bytes. -/
def Obligations.ReportLineHasTheTwoFormats : Prop :=
  ∀ f : PerAxis Sample,
    reportLine .minimal f =
      [0x58, 0x3A, 0x20] ++ dec f.accelX.toInt ++ [0x20, 0x59, 0x3A, 0x20] ++ dec f.accelY.toInt
        ++ [0x20, 0x5A, 0x3A, 0x20] ++ dec f.accelZ.toInt ++ [0x0A] ∧
    reportLine .full f =
      [0x58, 0x3A, 0x20] ++ dec f.accelX.toInt ++ [0x20, 0x59, 0x3A, 0x20] ++ dec f.accelY.toInt
        ++ [0x20, 0x5A, 0x3A, 0x20] ++ dec f.accelZ.toInt
        ++ [0x20, 0x50, 0x53, 0x53, 0x49, 0x3A, 0x20] ++ dec f.gyroX.toInt
        ++ [0x20, 0x50, 0x48, 0x49, 0x3A, 0x20] ++ dec f.gyroY.toInt
        ++ [0x20, 0x52, 0x48, 0x4F, 0x3A, 0x20] ++ dec f.gyroZ.toInt ++ [0x0A]

/-- R62: the addresses the cycle transmits are 8-bit sums that wrap modulo 256. -/
def Obligations.AxisAddressesWrapModulo256 : Prop :=
  ∀ (params : Params) (i : Axis),
    (axisAddr params i).toNat = (params.axisBase.toNat + 2 * i.number.toNat) % 256 ∧
    (params.axisBase.toNat ≤ 0xF4 → (axisAddr params i).toNat = params.axisBase.toNat + 2 * i.number.toNat)

/-- R160 to R165, R170, R213: CYCLE, for every way the bus completes its byte operations: each axis whose three
operations succeed gets its sample, every other keeps the old one and is flagged; then classification, report and
delay, on the frame as it then stands; the history is the reads in axis order, the classification, the report, the
delay.
(That a forced stop leaves the bus environment as the answer left it is the model's, log entry 14.) -/
def Obligations.CycleReadsClassifiesReportsAndDelays : Prop :=
  ∀ (s : State) (o : PerAxis AxisAnswers) (b : Bus),
    s.bus.Serves (asAnswers (cycleExchange s.params o)) b →
    ∃ t, exec .cycle s = .next t ∧
      (∀ i, t.f.get i = ((o.get i).sample).getD (s.f.get i)) ∧
      (∀ i, t.status.deg.get i = (o.get i).sample.isNone) ∧
      t.status.fail = Axis.all.any (fun i => (o.get i).sample.isNone) ∧
      t.p = ⟨t.f.accelX, t.f.accelY, t.f.accelZ⟩ ∧
      t.cls = { orient := orientResult s.params t.f.accel
                impact := impactFlags s.params t.f.accel s.p
                lamp := (orientResult s.params t.f.accel).lamp } ∧
      t.seq = { top := .none, step := o.gyroZ.lastStep, axi := .gyroZ, phase := .idle } ∧
      t.events = s.events ++ exchangeEvents (cycleExchange s.params o)
        ++ classifyEvents s.params (impactFlags s.params t.f.accel s.p) (orientResult s.params t.f.accel)
        ++ [.report (reportLine s.params.reportSet t.f), .delay s.params.cycleDelay] ∧
      t = { s with
        f := t.f, p := t.p, status := t.status, cls := t.cls, seq := t.seq, events := t.events, bus := b
        dr := o.gyroZ.finalDr (axisAddr s.params .gyroZ)
        xd := (o.gyroZ.last s.params.slaveAddr (axisAddr s.params .gyroZ)).1.descriptor } ∧
      t.status = { s.status with
        busy := false, xbusy := false, err := o.gyroZ.sample.isNone, held := false, fail := t.status.fail
        nack := (o.gyroZ.last s.params.slaveAddr (axisAddr s.params .gyroZ)).2.nack
        arblst := (o.gyroZ.last s.params.slaveAddr (axisAddr s.params .gyroZ)).2.arb
        hdir := Axis.all.foldl (fun dir i => (o.get i).finalDir dir) s.status.hdir
        deg := t.status.deg }

/-- R172, R122: a CYCLE that hangs has read no later axis and has classified and reported nothing. -/
def Obligations.HungCycleStopsWhereItHangs : Prop :=
  ∀ s t : State, exec .cycle s = .next t → t.status.busy = true →
    t.status.xbusy = true ∧ t.seq.top = .cycle ∧ t.seq.phase = .wait ∧ t.cls = s.cls ∧ t.p = s.p ∧
    t.status.fail = s.status.fail ∧
    (∀ i, t.seq.axi.number.toNat ≤ i.number.toNat →
      t.f.get i = s.f.get i ∧ t.status.deg.get i = s.status.deg.get i) ∧
    ∃ es, t.events = s.events ++ es ∧
      ∀ e ∈ es, (∃ q, e = .busReq q) ∨ (∃ n a r, e = .busResp n a r) ∨ e = .busStop true

/-- R171: two cycles in succession that receive the same bytes, no read failing: the same frame and report both times;
under `POLICY` = NONE or ABS the same `CLASS` and the same further events; under DELTA the second raises no impact. -/
def Obligations.RepeatedCycleIsIdempotent : Prop :=
  ∀ (s t u : State) (o : PerAxis AxisAnswers) (b b' : Bus), (∀ i, (o.get i).sample ≠ none) →
    s.bus.Serves (asAnswers (cycleExchange s.params o)) b →
    b.Serves (asAnswers (cycleExchange s.params o)) b' →
    exec .cycle s = .next t → exec .cycle t = .next u →
    u.f = t.f ∧
    (∃ xs ys line, t.events = s.events ++ xs ++ [.report line, .delay s.params.cycleDelay] ∧
      u.events = t.events ++ ys ++ [.report line, .delay s.params.cycleDelay]) ∧
    (s.params.policy ≠ .delta → u.cls = t.cls ∧
      ∃ es, t.events = s.events ++ es ∧ u.events = t.events ++ es) ∧
    (s.params.policy = .delta → u.cls.impact = ⟨false, false, false⟩ ∧ u.cls.orient = t.cls.orient)

/-- R167, R168: RUN after a successful `Init`: in the loop, `BUSY` = 1 and `TOP` = 6. (That the loop's cycles are later
steps is the model's, log entry 2.) -/
def Obligations.RunEntersTheLoopAfterInit : Prop :=
  ∀ (s : State) (c0 c1 : Byte) (b : Bus), s.status.halt = false →
    s.bus.Serves [(powerReq s.params, .complete false false c0), (wakeReq s.params, .complete false false c1)] b →
    exec .run s =
      .next { s with
        dr := s.params.wakeVal
        xd := (encode (.wrb s.params.slaveAddr s.params.wakeVal false true)).extractLsb' 8 20
        status := { s.status with busy := true, xbusy := false, err := false, nack := false, arblst := false
                                  held := false, hdir := .write, fail := false, initok := true }
        seq := { s.seq with top := .run, step := .op1, phase := .idle }
        events := s.events ++ [.busReq (powerReq s.params), .busResp false false c0,
                               .busReq (wakeReq s.params), .busResp false false c1]
        bus := b }

/-- R168, R212: RUN after a failed `Init`, for a failure of either operation: `Log(InitFailed)` once, as the last event;
`FAIL` and `INITFAIL`; with `INIT_FATAL` = 1 the halted point of R34, with 0 the loop.
(That a forced stop leaves the bus environment as the answer left it is the model's, log entry 14.) -/
def Obligations.RunAfterFailedInitHaltsOrProceeds : Prop :=
  (∀ (s : State) (c : Completion) (b : Bus), c.isError = true → s.status.halt = false →
    s.bus.Serves [(powerReq s.params, c.answer)] b →
    ∃ t, exec .run s = .next t ∧ (if s.params.initFatal then t.Halted else t.Looping) ∧
      t = { s with
        dr := s.params.pwrReg
        xd := (encode (.wrb s.params.slaveAddr s.params.pwrReg true false)).extractLsb' 8 20
        status := { s.status with
          busy := true, xbusy := false, err := true, nack := c.nack, arblst := c.arb, held := false
          fail := true, initok := false, initfail := true, halt := s.params.initFatal }
        seq := { s.seq with top := .run, step := .op0, phase := .idle }
        events := s.events ++ exchangeEvents [(powerReq s.params, c)] ++ [.log .initFailed]
        bus := b }) ∧
  (∀ (s : State) (c0 c1 : Completion) (b : Bus), c0.isError = false → c1.isError = true → s.status.halt = false →
    s.bus.Serves [(powerReq s.params, c0.answer), (wakeReq s.params, c1.answer)] b →
    ∃ t, exec .run s = .next t ∧ (if s.params.initFatal then t.Halted else t.Looping) ∧
      t = { s with
        dr := s.params.wakeVal
        xd := (encode (.wrb s.params.slaveAddr s.params.wakeVal false true)).extractLsb' 8 20
        status := { s.status with
          busy := true, xbusy := false, err := true, nack := c1.nack, arblst := c1.arb, held := false, hdir := .write
          fail := true, initok := false, initfail := true, halt := s.params.initFatal }
        seq := { s.seq with top := .run, step := .op1, phase := .idle }
        events := s.events ++ exchangeEvents [(powerReq s.params, c0), (wakeReq s.params, c1)] ++ [.log .initFailed]
        bus := b })

/-- R167, R169 (c): in RUN's loop a step, the host doing nothing (an empty list or `wait`, log entry 4), is one `Cycle()`:
what CYCLE does, but `BUSY` stays 1, `TOP` stays 6 and `FAIL` is not written; it hangs where CYCLE hangs. (One step for
one cycle is the model's, log entry 2.) -/
def Obligations.LoopStepIsOneCycle : Prop :=
  ∀ (s t : State), s.Looping → s.host = [] ∨ (∃ rest, s.host = .wait :: rest) → exec .cycle s = .next t →
    (t.status.xbusy = false →
      step s = .next { t with status := { t.status with busy := true, fail := s.status.fail }
                              seq := { t.seq with top := .run }
                              host := s.host.tail }) ∧
    (t.status.xbusy = true → step s = .next { t with seq := { t.seq with top := .run }, host := s.host.tail })

/-- R167, R34: nothing but a reset ends RUN: after any other step it is in its loop, or hung with `TOP` = 6. -/
def Obligations.RunNeverReturns : Prop :=
  ∀ s t : State, s.Looping → s.NoReset → step s = .next t →
    t.Looping ∨ (t.Hung ∧ t.seq.top = .run)

/-! ### Who may write what (10_state.md rules R22, R24, R25, R32, R35) -/

/-- Frames over all instructions: which registers a command can change. For RUN this is the model's (log entry 2): `exec`
runs it up to the entry of its loop, and R167 lets the loop's cycles, which are later steps, write `F`, `DEG`, `P`, `CLASS`
and `AXI`. That FSTOP leaves the bus environment as it was is the model's too (log entry 14; I16 leaves it open). -/
def Obligations.CommandsWriteOnlyTheirRegisters : Prop :=
  ∀ (i : Instr) (s t : State), exec i s = .next t →
    (i ≠ .clsfy → i ≠ .cycle → t.p = s.p ∧ t.cls = s.cls) ∧
    (i ≠ .cycle → (∀ d reg, i ≠ .rdax d reg) → t.f = s.f ∧ t.status.deg = s.status.deg) ∧
    (∀ d reg, i = .rdax d reg →
      ∀ a : Axis, a.number ≠ d → t.f.get a = s.f.get a ∧ t.status.deg.get a = s.status.deg.get a) ∧
    (i = .fstop ∨ i = .clsfy → t.dr = s.dr ∧ t.xd = s.xd ∧ t.bus = s.bus ∧ t.seq.step = s.seq.step ∧
      t.status.err = s.status.err ∧ t.status.nack = s.status.nack ∧ t.status.arblst = s.status.arblst) ∧
    (i ≠ .init → i ≠ .run → t.status.initok = s.status.initok ∧ t.status.initfail = s.status.initfail) ∧
    (i ≠ .cycle → t.seq.axi = s.seq.axi) ∧
    (i ≠ .run → t.status.halt = s.status.halt) ∧
    t.params = s.params ∧ t.host = s.host ∧ t.portOut = s.portOut
end

