-- ==== Sys2Proof/Laws/Program.lean ====
section
/-! SUPPORT. Running a program, and its points: one lemma per form, sequencing, and properties no line breaks. -/

namespace Sys2Proof.Machine

/-! ### Running -/

@[simp] theorem Prog.run_ret {α : Type} (a : α) (s : State) : (Prog.ret a).run s = .ret a s := rfl
@[simp] theorem Prog.run_act {α : Type} (f : State → State) (p : Prog α) (s : State) :
    (Prog.act f p).run s = p.run (f s) := rfl
@[simp] theorem Prog.run_look {α : Type} (p : State → Prog α) (s : State) : (Prog.look p).run s = (p s).run s := rfl

/-- A request the oracle never answers: the program stays there (R122). -/
theorem Prog.run_ask_never {α : Type} {req : BusReq} {s : State} {b : Bus} (h : s.bus.answer req = (.never, b))
    (p : Bool → Bool → Byte → Prog α) : (Prog.ask req p).run s = .never { s with bus := b } := by
  simp [Prog.run, h]

/-- A request the oracle completes. -/
theorem Prog.run_ask_complete {α : Type} {req : BusReq} {s : State} {nack arb : Bool} {rdata : Byte} {b : Bus}
    (h : s.bus.answer req = (.complete nack arb rdata, b)) (p : Bool → Bool → Byte → Prog α) :
    (Prog.ask req p).run s = (p nack arb rdata).run { s with bus := b } := by
  simp [Prog.run, h]

/-- What follows a procedure that ended; one that never returns has nothing after it. -/
def Proc.andThen {α β : Type} : Proc α → (α → State → Proc β) → Proc β
  | .ret a s, k => k a s
  | .never s, _ => .never s

@[simp] theorem Proc.andThen_ret {α β : Type} (a : α) (s : State) (k : α → State → Proc β) :
    (Proc.ret a s).andThen k = k a s := rfl
@[simp] theorem Proc.andThen_never {α β : Type} (s : State) (k : α → State → Proc β) :
    (Proc.never s).andThen k = .never s := rfl

/-- A call: the procedure first, then what follows with its result. -/
theorem Prog.run_bind {α β : Type} (p : Prog α) (k : α → Prog β) (s : State) :
    (p.bind k).run s = (p.run s).andThen fun a t => (k a).run t := by
  induction p generalizing s with
  | ret a => rfl
  | act f p ih => exact ih (f s)
  | ask req p ih =>
    rcases h : s.bus.answer req with ⟨a, b⟩
    cases a with
    | never => simp [Prog.bind, Prog.run, h]
    | complete nack arb rdata => simp [Prog.bind, Prog.run, h, ih]
  | look p ih => exact ih s s

theorem Prog.run_seq {α β : Type} (p : Prog α) (q : Prog β) (s : State) :
    (p.seq q).run s = (p.run s).andThen fun _ t => q.run t := Prog.run_bind p _ s

/-! ### Points -/

@[simp] theorem Prog.point_ret {α : Type} (a : α) (k : Nat) (s : State) : (Prog.ret a).point k s = none := rfl
@[simp] theorem Prog.point_act_zero {α : Type} (f : State → State) (p : Prog α) (s : State) :
    (Prog.act f p).point 0 s = some s := rfl
@[simp] theorem Prog.point_act_succ {α : Type} (f : State → State) (p : Prog α) (k : Nat) (s : State) :
    (Prog.act f p).point (k + 1) s = p.point k (f s) := rfl
@[simp] theorem Prog.point_look {α : Type} (p : State → Prog α) (k : Nat) (s : State) :
    (Prog.look p).point k s = (p s).point k s := rfl
@[simp] theorem Prog.point_ask_zero {α : Type} (req : BusReq) (p : Bool → Bool → Byte → Prog α) (s : State) :
    (Prog.ask req p).point 0 s = some s := rfl

/-- A point inside a procedure is a point of the program that calls it. -/
theorem Prog.point_bind {α β : Type} {p : Prog α} (q : α → Prog β) {k : Nat} {s t : State}
    (h : p.point k s = some t) : (p.bind q).point k s = some t := by
  induction p generalizing k s with
  | ret a => simp at h
  | act f p ih =>
    cases k with
    | zero => exact h
    | succ k => exact ih h
  | ask req p ih =>
    cases k with
    | zero => exact h
    | succ k =>
      rcases ha : s.bus.answer req with ⟨a, b⟩
      cases a with
      | never => simp only [Prog.point, Prog.bind, ha] at h ⊢; exact h
      | complete nack arb rdata => simp only [Prog.point, Prog.bind, ha] at h ⊢; exact ih _ _ _ h
  | look p ih => exact ih s h

/-- Past the end of a procedure that returns, its caller's points follow. -/
theorem Prog.point_bind_after {α β : Type} {p : Prog α} (q : α → Prog β) {s t u : State} {a : α} {k : Nat}
    (h : p.run s = .ret a t) (hq : (q a).point k t = some u) : ∃ n, (p.bind q).point (n + k) s = some u := by
  induction p generalizing s with
  | ret b =>
    cases h
    exact ⟨0, by rw [Nat.zero_add]; exact hq⟩
  | act f p ih =>
    obtain ⟨n, hn⟩ := ih h
    exact ⟨n + 1, by rw [Nat.add_right_comm]; exact hn⟩
  | ask req p ih =>
    rcases ha : s.bus.answer req with ⟨c, b⟩
    cases c with
    | never => rw [Prog.run_ask_never ha] at h; cases h
    | complete nack arb rdata =>
      rw [Prog.run_ask_complete ha] at h
      obtain ⟨n, hn⟩ := ih _ _ _ h
      refine ⟨n + 1, ?_⟩
      rw [Nat.add_right_comm]
      simp only [Prog.bind, Prog.point, ha]
      exact hn
  | look p ih =>
    obtain ⟨n, hn⟩ := ih s h
    exact ⟨n, hn⟩

/-! ### What no line of a program breaks -/

/-- Every line keeps `P`, and so does every answer of the oracle. -/
def Prog.Keeps {α : Type} (P : State → Prop) : Prog α → Prop
  | .ret _ => True
  | .act f p => (∀ s, P s → P (f s)) ∧ p.Keeps P
  | .ask req p =>
    (∀ s, P s → P { s with bus := (s.bus.answer req).2 }) ∧ ∀ nack arb rdata, (p nack arb rdata).Keeps P
  | .look p => ∀ s, (p s).Keeps P

theorem Prog.Keeps.bind {α β : Type} {P : State → Prop} {p : Prog α} {q : α → Prog β} (hp : p.Keeps P)
    (hq : ∀ a, (q a).Keeps P) : (p.bind q).Keeps P := by
  induction p with
  | ret a => exact hq a
  | act f p ih => exact ⟨hp.1, ih hp.2⟩
  | ask req p ih => exact ⟨hp.1, fun n a r => ih n a r (hp.2 n a r)⟩
  | look p ih => exact fun s => ih s (hp s)

theorem Prog.Keeps.seq {α β : Type} {P : State → Prop} {p : Prog α} {q : Prog β} (hp : p.Keeps P) (hq : q.Keeps P) :
    (p.seq q).Keeps P := hp.bind fun _ => hq

/-- What every line keeps holds at every point. -/
theorem Prog.Keeps.point {α : Type} {P : State → Prop} {p : Prog α} (hp : p.Keeps P) {k : Nat} {s t : State} (hs : P s)
    (h : p.point k s = some t) : P t := by
  induction p generalizing k s with
  | ret a => simp at h
  | act f p ih =>
    cases k with
    | zero => cases h; exact hs
    | succ k => exact ih hp.2 (hp.1 s hs) h
  | ask req p ih =>
    cases k with
    | zero => cases h; exact hs
    | succ k =>
      rcases ha : s.bus.answer req with ⟨a, b⟩
      have hb := hp.1 s hs
      rw [ha] at hb
      cases a with
      | never => simp only [Prog.point, ha] at h; cases h; exact hb
      | complete nack arb rdata =>
        simp only [Prog.point, ha] at h
        exact ih nack arb rdata (hp.2 _ _ _) hb h
  | look p ih => exact ih s (hp s) hs h

/-- The same for a procedure that is called, and points of its caller after it. -/
theorem Prog.Keeps.point_bind {α β : Type} {P : State → Prop} {p : Prog α} {q : α → Prog β} (hp : p.Keeps P)
    (hq : ∀ a k s t, P s → (q a).point k s = some t → P t) {k : Nat} {s t : State} (hs : P s)
    (h : (p.bind q).point k s = some t) : P t := by
  induction p generalizing k s with
  | ret a => exact hq a k s t hs h
  | act f p ih =>
    cases k with
    | zero => cases h; exact hs
    | succ k => exact ih hp.2 (hp.1 s hs) h
  | ask req p ih =>
    cases k with
    | zero => cases h; exact hs
    | succ k =>
      rcases ha : s.bus.answer req with ⟨a, b⟩
      have hb := hp.1 s hs
      rw [ha] at hb
      cases a with
      | never => simp only [Prog.bind, Prog.point, ha] at h; cases h; exact hb
      | complete nack arb rdata =>
        simp only [Prog.bind, Prog.point, ha] at h
        exact ih nack arb rdata (hp.2 _ _ _) hb h
  | look p ih => exact ih s (hp s) hs h

/-- What every line keeps holds at the end. -/
theorem Prog.Keeps.run {α : Type} {P : State → Prop} {p : Prog α} (hp : p.Keeps P) {s : State} (hs : P s) :
    P (p.run s).final := by
  induction p generalizing s with
  | ret a => exact hs
  | act f p ih => exact ih hp.2 (hp.1 s hs)
  | ask req p ih =>
    rcases ha : s.bus.answer req with ⟨a, b⟩
    have hb := hp.1 s hs
    rw [ha] at hb
    cases a with
    | never => rw [Prog.run_ask_never ha]; exact hb
    | complete nack arb rdata => rw [Prog.run_ask_complete ha]; exact ih nack arb rdata (hp.2 _ _ _) hb
  | look p ih => exact ih s (hp s) hs

/-! ### What a program neither reads nor writes -/

/-- The same end, seen in another state. -/
def Proc.map {α : Type} (g : State → State) : Proc α → Proc α
  | .ret a s => .ret a (g s)
  | .never s => .never (g s)

theorem Proc.map_final {α : Type} (g : State → State) (p : Proc α) : (p.map g).final = g p.final := by
  cases p <;> rfl

/-- Every line does in `g s` what it does in `s`, and leaves what `g` sets alone. -/
def Prog.Ignores {α : Type} (g : State → State) : Prog α → Prop
  | .ret _ => True
  | .act f p => (∀ s, f (g s) = g (f s)) ∧ p.Ignores g
  | .ask _ p =>
    (∀ s, (g s).bus = s.bus) ∧ (∀ s b, { g s with bus := b } = g { s with bus := b }) ∧
      ∀ nack arb rdata, (p nack arb rdata).Ignores g
  | .look p => (∀ s, p (g s) = p s) ∧ ∀ s, (p s).Ignores g

theorem Prog.Ignores.bind {α β : Type} {g : State → State} {p : Prog α} {q : α → Prog β} (hp : p.Ignores g)
    (hq : ∀ a, (q a).Ignores g) : (p.bind q).Ignores g := by
  induction p with
  | ret a => exact hq a
  | act f p ih => exact ⟨hp.1, ih hp.2⟩
  | ask req p ih => exact ⟨hp.1, hp.2.1, fun n a r => ih n a r (hp.2.2 n a r)⟩
  | look p ih => exact ⟨fun s => congrArg (·.bind q) (hp.1 s), fun s => ih s (hp.2 s)⟩

theorem Prog.Ignores.seq {α β : Type} {g : State → State} {p : Prog α} {q : Prog β} (hp : p.Ignores g)
    (hq : q.Ignores g) : (p.seq q).Ignores g := hp.bind fun _ => hq

/-- The end does not depend on it. -/
theorem Prog.Ignores.run {α : Type} {g : State → State} {p : Prog α} (hp : p.Ignores g) (s : State) :
    p.run (g s) = (p.run s).map g := by
  induction p generalizing s with
  | ret a => rfl
  | act f p ih => rw [Prog.run_act, hp.1, ih hp.2, Prog.run_act]
  | ask req p ih =>
    rcases ha : s.bus.answer req with ⟨a, b⟩
    have hg : (g s).bus.answer req = (a, b) := by rw [hp.1, ha]
    cases a with
    | never => rw [Prog.run_ask_never ha, Prog.run_ask_never hg, hp.2.1]; rfl
    | complete nack arb rdata =>
      rw [Prog.run_ask_complete ha, Prog.run_ask_complete hg, hp.2.1, ih _ _ _ (hp.2.2 _ _ _)]
  | look p ih => rw [Prog.run_look, hp.1, ih s (hp.2 s), Prog.run_look]

end Sys2Proof.Machine
end

