-- ==== Sys2Proof/Laws/State.lean ====
section
/-! SUPPORT. The small lemmas of the state: reading a register file after a write, one lemma per field per update that
the field sees, and the round trip of axis numbers. -/

namespace Sys2Proof.Machine

/-! ### Register files -/

@[simp] theorem PerAxis.get_set_same {α : Type} (r : PerAxis α) (i : Axis) (v : α) : (r.set i v).get i = v := by
  cases i <;> rfl

theorem PerAxis.get_set {α : Type} (r : PerAxis α) (i j : Axis) (v : α) :
    (r.set i v).get j = if j = i then v else r.get j := by
  cases i <;> cases j <;> rfl

theorem PerAxis.ext_get {α : Type} {r q : PerAxis α} (h : ∀ i, r.get i = q.get i) : r = q := by
  cases r; cases q
  have h0 := h .accelX; have h1 := h .accelY; have h2 := h .accelZ
  have h3 := h .gyroX; have h4 := h .gyroY; have h5 := h .gyroZ
  simp_all [PerAxis.get]

@[simp] theorem PerAxis.set_set {α : Type} (r : PerAxis α) (i : Axis) (v w : α) : (r.set i v).set i w = r.set i w := by
  cases i <;> rfl

@[simp] theorem Triple.get_set_same {α : Type} (r : Triple α) (i : Accel) (v : α) : (r.set i v).get i = v := by
  cases i <;> rfl

theorem Triple.get_set {α : Type} (r : Triple α) (i j : Accel) (v : α) :
    (r.set i v).get j = if j = i then v else r.get j := by
  cases i <;> cases j <;> rfl

@[simp] theorem Axis.ofNumber_number (i : Axis) : Axis.ofNumber i.number = some i := by cases i <;> rfl

theorem Axis.ofNumber_some {d : BitVec 3} {i : Axis} (h : Axis.ofNumber d = some i) : d = i.number := by
  revert d i; decide +revert

theorem Axis.ofNumber_none_iff (d : BitVec 3) : Axis.ofNumber d = none ↔ ¬ d ≤ 5#3 := by
  revert d; decide +revert

/-! ### The state's updates, field by field -/

@[simp] theorem State.emit_events (s : State) (e : Event) : (s.emit e).events = s.events ++ [e] := rfl
@[simp] theorem State.emit_f (s : State) (e : Event) : (s.emit e).f = s.f := rfl
@[simp] theorem State.emit_p (s : State) (e : Event) : (s.emit e).p = s.p := rfl
@[simp] theorem State.emit_dr (s : State) (e : Event) : (s.emit e).dr = s.dr := rfl
@[simp] theorem State.emit_xd (s : State) (e : Event) : (s.emit e).xd = s.xd := rfl
@[simp] theorem State.emit_status (s : State) (e : Event) : (s.emit e).status = s.status := rfl
@[simp] theorem State.emit_cls (s : State) (e : Event) : (s.emit e).cls = s.cls := rfl
@[simp] theorem State.emit_seq (s : State) (e : Event) : (s.emit e).seq = s.seq := rfl
@[simp] theorem State.emit_params (s : State) (e : Event) : (s.emit e).params = s.params := rfl
@[simp] theorem State.emit_bus (s : State) (e : Event) : (s.emit e).bus = s.bus := rfl
@[simp] theorem State.emit_host (s : State) (e : Event) : (s.emit e).host = s.host := rfl
@[simp] theorem State.emit_portOut (s : State) (e : Event) : (s.emit e).portOut = s.portOut := rfl

@[simp] theorem State.setStep_seq (s : State) (k : OpIndex) : (s.setStep k).seq = { s.seq with step := k } := rfl
@[simp] theorem State.setStep_f (s : State) (k : OpIndex) : (s.setStep k).f = s.f := rfl
@[simp] theorem State.setStep_p (s : State) (k : OpIndex) : (s.setStep k).p = s.p := rfl
@[simp] theorem State.setStep_dr (s : State) (k : OpIndex) : (s.setStep k).dr = s.dr := rfl
@[simp] theorem State.setStep_xd (s : State) (k : OpIndex) : (s.setStep k).xd = s.xd := rfl
@[simp] theorem State.setStep_status (s : State) (k : OpIndex) : (s.setStep k).status = s.status := rfl
@[simp] theorem State.setStep_cls (s : State) (k : OpIndex) : (s.setStep k).cls = s.cls := rfl
@[simp] theorem State.setStep_events (s : State) (k : OpIndex) : (s.setStep k).events = s.events := rfl
@[simp] theorem State.setStep_params (s : State) (k : OpIndex) : (s.setStep k).params = s.params := rfl
@[simp] theorem State.setStep_bus (s : State) (k : OpIndex) : (s.setStep k).bus = s.bus := rfl
@[simp] theorem State.setStep_host (s : State) (k : OpIndex) : (s.setStep k).host = s.host := rfl
@[simp] theorem State.setStep_portOut (s : State) (k : OpIndex) : (s.setStep k).portOut = s.portOut := rfl

@[simp] theorem State.setAxi_seq (s : State) (i : Axis) : (s.setAxi i).seq = { s.seq with axi := i } := rfl
@[simp] theorem State.setAxi_f (s : State) (i : Axis) : (s.setAxi i).f = s.f := rfl
@[simp] theorem State.setAxi_p (s : State) (i : Axis) : (s.setAxi i).p = s.p := rfl
@[simp] theorem State.setAxi_dr (s : State) (i : Axis) : (s.setAxi i).dr = s.dr := rfl
@[simp] theorem State.setAxi_xd (s : State) (i : Axis) : (s.setAxi i).xd = s.xd := rfl
@[simp] theorem State.setAxi_status (s : State) (i : Axis) : (s.setAxi i).status = s.status := rfl
@[simp] theorem State.setAxi_cls (s : State) (i : Axis) : (s.setAxi i).cls = s.cls := rfl
@[simp] theorem State.setAxi_events (s : State) (i : Axis) : (s.setAxi i).events = s.events := rfl
@[simp] theorem State.setAxi_params (s : State) (i : Axis) : (s.setAxi i).params = s.params := rfl
@[simp] theorem State.setAxi_bus (s : State) (i : Axis) : (s.setAxi i).bus = s.bus := rfl
@[simp] theorem State.setAxi_host (s : State) (i : Axis) : (s.setAxi i).host = s.host := rfl
@[simp] theorem State.setAxi_portOut (s : State) (i : Axis) : (s.setAxi i).portOut = s.portOut := rfl

@[simp] theorem State.setPhase_seq (s : State) (p : Phase) : (s.setPhase p).seq = { s.seq with phase := p } := rfl
@[simp] theorem State.setPhase_status (s : State) (p : Phase) : (s.setPhase p).status = s.status := rfl
@[simp] theorem State.setPhase_events (s : State) (p : Phase) : (s.setPhase p).events = s.events := rfl
@[simp] theorem State.setPhase_params (s : State) (p : Phase) : (s.setPhase p).params = s.params := rfl
@[simp] theorem State.setPhase_bus (s : State) (p : Phase) : (s.setPhase p).bus = s.bus := rfl

@[simp] theorem State.accept_status (s : State) (op : Top) :
    (s.accept op).status = { s.status with busy := true } := rfl
@[simp] theorem State.accept_seq (s : State) (op : Top) : (s.accept op).seq = { s.seq with top := op } := rfl
@[simp] theorem State.accept_f (s : State) (op : Top) : (s.accept op).f = s.f := rfl
@[simp] theorem State.accept_p (s : State) (op : Top) : (s.accept op).p = s.p := rfl
@[simp] theorem State.accept_dr (s : State) (op : Top) : (s.accept op).dr = s.dr := rfl
@[simp] theorem State.accept_xd (s : State) (op : Top) : (s.accept op).xd = s.xd := rfl
@[simp] theorem State.accept_cls (s : State) (op : Top) : (s.accept op).cls = s.cls := rfl
@[simp] theorem State.accept_events (s : State) (op : Top) : (s.accept op).events = s.events := rfl
@[simp] theorem State.accept_params (s : State) (op : Top) : (s.accept op).params = s.params := rfl
@[simp] theorem State.accept_bus (s : State) (op : Top) : (s.accept op).bus = s.bus := rfl
@[simp] theorem State.accept_host (s : State) (op : Top) : (s.accept op).host = s.host := rfl
@[simp] theorem State.accept_portOut (s : State) (op : Top) : (s.accept op).portOut = s.portOut := rfl

@[simp] theorem State.setFail_status (s : State) (b : Bool) : (s.setFail b).status = { s.status with fail := b } := rfl
@[simp] theorem State.setFail_f (s : State) (b : Bool) : (s.setFail b).f = s.f := rfl
@[simp] theorem State.setFail_p (s : State) (b : Bool) : (s.setFail b).p = s.p := rfl
@[simp] theorem State.setFail_dr (s : State) (b : Bool) : (s.setFail b).dr = s.dr := rfl
@[simp] theorem State.setFail_xd (s : State) (b : Bool) : (s.setFail b).xd = s.xd := rfl
@[simp] theorem State.setFail_cls (s : State) (b : Bool) : (s.setFail b).cls = s.cls := rfl
@[simp] theorem State.setFail_seq (s : State) (b : Bool) : (s.setFail b).seq = s.seq := rfl
@[simp] theorem State.setFail_events (s : State) (b : Bool) : (s.setFail b).events = s.events := rfl
@[simp] theorem State.setFail_params (s : State) (b : Bool) : (s.setFail b).params = s.params := rfl
@[simp] theorem State.setFail_bus (s : State) (b : Bool) : (s.setFail b).bus = s.bus := rfl
@[simp] theorem State.setFail_host (s : State) (b : Bool) : (s.setFail b).host = s.host := rfl
@[simp] theorem State.setFail_portOut (s : State) (b : Bool) : (s.setFail b).portOut = s.portOut := rfl

@[simp] theorem State.finish_status (s : State) : s.finish.status = { s.status with busy := false } := rfl
@[simp] theorem State.finish_seq (s : State) : s.finish.seq = { s.seq with top := .none } := rfl
@[simp] theorem State.finish_f (s : State) : s.finish.f = s.f := rfl
@[simp] theorem State.finish_p (s : State) : s.finish.p = s.p := rfl
@[simp] theorem State.finish_dr (s : State) : s.finish.dr = s.dr := rfl
@[simp] theorem State.finish_xd (s : State) : s.finish.xd = s.xd := rfl
@[simp] theorem State.finish_cls (s : State) : s.finish.cls = s.cls := rfl
@[simp] theorem State.finish_events (s : State) : s.finish.events = s.events := rfl
@[simp] theorem State.finish_params (s : State) : s.finish.params = s.params := rfl
@[simp] theorem State.finish_bus (s : State) : s.finish.bus = s.bus := rfl
@[simp] theorem State.finish_host (s : State) : s.finish.host = s.host := rfl
@[simp] theorem State.finish_portOut (s : State) : s.finish.portOut = s.portOut := rfl

/-! ### Faults, reset and the port -/

/-- All a raised fault does: its sticky bit and `FAIL` (R214, R215). -/
theorem State.raise_eq (s : State) (x : RaisedFault) :
    s.raise x = { s with status := match x with
      | .illegalCommand => { s.status with ill := true, fail := true }
      | .sequenceError => { s.status with seqf := true, fail := true } } := by
  cases x <;> rfl

/-- A register write reaches `F` and `P` only (R39). -/
theorem State.portWrite_frame (s : State) (n : BitVec 8) (w : Word) :
    s.portWrite n w = { s with f := (s.portWrite n w).f, p := (s.portWrite n w).p } := by
  unfold State.portWrite
  split
  · rfl
  · unfold State.storeRegister
    split <;> rfl

/-- While `BUSY` = 1 a register write has no effect (R39). -/
theorem State.portWrite_busy {s : State} (h : s.status.busy = true) (n : BitVec 8) (w : Word) :
    s.portWrite n w = s := by
  simp [State.portWrite, h]

/-- Reset keeps the parameters and the environment (R241, R242). -/
theorem State.applyReset_eq (s : State) :
    s.applyReset = { State.reset with params := s.params, bus := s.bus, host := s.host, portOut := s.portOut } := rfl

end Sys2Proof.Machine
end

