-- ==== Sys2Proof/Laws/BusEngine.lean ====
section
/-! SUPPORT. What `Xfer` can do, said once (R120 to R123, R129): its four outcomes with the whole resulting state, and
the case split over them that callers cite. -/

namespace Sys2Proof.Machine

/-! ### The states `Xfer` leaves -/

/-- The state at the wait point (R120): the request is out, the oracle has been asked. -/
def atWait (s : State) (q : BusReq) (b : Bus) : State :=
  { s with
    xd := q.descriptor
    dr := match q.dir with | .write => q.data | .read => s.dr
    events := s.events ++ [.busReq q]
    status := { s.status with err := false, nack := false, arblst := false, xbusy := true }
    seq := { s.seq with phase := .wait }
    bus := b }

/-- The state after an operation that completed with an error (R120, R123). -/
def afterError (s : State) (q : BusReq) (nack arb : Bool) (rdata : Byte) (b : Bus) : State :=
  { s with
    xd := q.descriptor
    dr := match q.dir with | .write => q.data | .read => s.dr
    events := s.events ++ [.busReq q, .busResp nack arb rdata, .busStop true]
    status := { s.status with xbusy := false, err := true, nack := nack, arblst := arb, held := false }
    seq := { s.seq with phase := .idle }
    bus := b }

/-- The state after an operation that completed without error (R120). -/
def afterOk (s : State) (q : BusReq) (rdata : Byte) (b : Bus) : State :=
  { s with
    xd := q.descriptor
    dr := match q.dir with | .write => q.data | .read => rdata
    events := s.events ++ [.busReq q, .busResp false false rdata]
    status := { s.status with
      xbusy := false, err := false, nack := false, arblst := false, held := !q.stop, hdir := q.dir }
    seq := { s.seq with phase := .idle }
    bus := b }

/-- The byte `Ok` carries (R120: `Ok(DR)`): the byte sent, or the byte received. -/
def okByte : Dir → Byte → Byte → Byte
  | .write, data, _ => data
  | .read, _, rdata => rdata

@[simp] theorem okByte_write (data rdata : Byte) : okByte .write data rdata = data := rfl
@[simp] theorem okByte_read (data rdata : Byte) : okByte .read data rdata = rdata := rfl

/-! ### The four outcomes -/

theorem xfer_refused {s : State} {dir : Dir} {start : Bool} (h : s.status.mayTransfer dir start = false)
    (sa : SlaveAddr) (data : Byte) (stop ack : Bool) :
    (xfer sa dir data start stop ack).run s = .ret .fail (s.raise .sequenceError) := by
  simp [xfer, h]

/-- From the check to the wait point, and what the answer then makes of it. -/
theorem xfer_run {s : State} {dir : Dir} {start : Bool} (h : s.status.mayTransfer dir start = true)
    (sa : SlaveAddr) (data : Byte) (stop ack : Bool) :
    (xfer sa dir data start stop ack).run s =
      (Prog.ask (BusReq.of sa dir data start stop ack) (xferCompleted dir stop)).run
        (atWait s (BusReq.of sa dir data start stop ack) s.bus) := by
  unfold xfer
  rw [Prog.run_look, if_pos h]
  cases dir <;> rfl

theorem xfer_never {s : State} {sa : SlaveAddr} {dir : Dir} {data : Byte} {start stop ack : Bool} {b : Bus}
    (h : s.status.mayTransfer dir start = true)
    (ha : s.bus.answer (BusReq.of sa dir data start stop ack) = (.never, b)) :
    (xfer sa dir data start stop ack).run s = .never (atWait s (BusReq.of sa dir data start stop ack) b) := by
  rw [xfer_run h, Prog.run_ask_never (by exact ha)]
  rfl

theorem xfer_error {s : State} {sa : SlaveAddr} {dir : Dir} {data rdata : Byte} {start stop ack nack arb : Bool}
    {b : Bus} (h : s.status.mayTransfer dir start = true)
    (ha : s.bus.answer (BusReq.of sa dir data start stop ack) = (.complete nack arb rdata, b))
    (he : (nack || arb) = true) :
    (xfer sa dir data start stop ack).run s =
      .ret .fail (afterError s (BusReq.of sa dir data start stop ack) nack arb rdata b) := by
  rw [xfer_run h, Prog.run_ask_complete (by exact ha), xferCompleted]
  simp only [he, if_true]
  cases dir <;>
    simp [Prog.seq, Prog.bind, afterError, forcedStop, atWait, State.emit, State.setPhase, State.flags, Status.errored,
      BusReq.of]

theorem xfer_ok {s : State} {sa : SlaveAddr} {dir : Dir} {data rdata : Byte} {start stop ack : Bool} {b : Bus}
    (h : s.status.mayTransfer dir start = true)
    (ha : s.bus.answer (BusReq.of sa dir data start stop ack) = (.complete false false rdata, b)) :
    (xfer sa dir data start stop ack).run s =
      .ret (.ok (okByte dir data rdata))
        (afterOk s (BusReq.of sa dir data start stop ack) rdata b) := by
  rw [xfer_run h, Prog.run_ask_complete (by exact ha), xferCompleted]
  cases dir <;>
    simp [afterOk, atWait, State.emit, State.setPhase, State.flags, BusReq.of]

/-- All `Xfer` can do (R129). -/
theorem xfer_cases (sa : SlaveAddr) (dir : Dir) (data : Byte) (start stop ack : Bool) (s : State) :
    (s.status.mayTransfer dir start = false ∧
      (xfer sa dir data start stop ack).run s = .ret .fail (s.raise .sequenceError)) ∨
    (s.status.mayTransfer dir start = true ∧ ∃ b,
      s.bus.answer (BusReq.of sa dir data start stop ack) = (.never, b) ∧
      (xfer sa dir data start stop ack).run s = .never (atWait s (BusReq.of sa dir data start stop ack) b)) ∨
    (s.status.mayTransfer dir start = true ∧ ∃ nack arb rdata b, (nack || arb) = true ∧
      s.bus.answer (BusReq.of sa dir data start stop ack) = (.complete nack arb rdata, b) ∧
      (xfer sa dir data start stop ack).run s =
        .ret .fail (afterError s (BusReq.of sa dir data start stop ack) nack arb rdata b)) ∨
    (s.status.mayTransfer dir start = true ∧ ∃ rdata b,
      s.bus.answer (BusReq.of sa dir data start stop ack) = (.complete false false rdata, b) ∧
      (xfer sa dir data start stop ack).run s =
        .ret (.ok (okByte dir data rdata))
          (afterOk s (BusReq.of sa dir data start stop ack) rdata b)) := by
  cases hm : s.status.mayTransfer dir start with
  | false => exact .inl ⟨rfl, xfer_refused hm sa data stop ack⟩
  | true =>
    right
    rcases ha : s.bus.answer (BusReq.of sa dir data start stop ack) with ⟨a, b⟩
    cases a with
    | never => exact .inl ⟨rfl, b, rfl, xfer_never hm ha⟩
    | complete nack arb rdata =>
      right
      cases he : nack || arb with
      | true => exact .inl ⟨rfl, nack, arb, rdata, b, he, rfl, xfer_error hm ha he⟩
      | false =>
        obtain ⟨rfl, rfl⟩ : nack = false ∧ arb = false := by simpa using he
        exact .inr ⟨rfl, rdata, b, rfl, xfer_ok hm ha⟩

/-! ### What `Xfer` leaves alone -/

/-- The part of the state no byte operation touches, whatever its outcome (R129): `F`, `P`, `CLASS`, the parameters, the
host's side, `BUSY`, `HALT`, `ILL`, the outcome flags of `Init`, `DEG`, and the fields of `SEQ` other than `PHASE`. -/
structure Untouched (s t : State) : Prop where
  f : t.f = s.f
  p : t.p = s.p
  cls : t.cls = s.cls
  params : t.params = s.params
  host : t.host = s.host
  portOut : t.portOut = s.portOut
  busy : t.status.busy = s.status.busy
  halt : t.status.halt = s.status.halt
  ill : t.status.ill = s.status.ill
  initok : t.status.initok = s.status.initok
  initfail : t.status.initfail = s.status.initfail
  deg : t.status.deg = s.status.deg
  top : t.seq.top = s.seq.top
  step : t.seq.step = s.seq.step
  axi : t.seq.axi = s.seq.axi

theorem xfer_untouched (sa : SlaveAddr) (dir : Dir) (data : Byte) (start stop ack : Bool) (s : State) :
    Untouched s ((xfer sa dir data start stop ack).run s).final := by
  rcases xfer_cases sa dir data start stop ack s with
    ⟨-, h⟩ | ⟨-, b, -, h⟩ | ⟨-, n, a, r, b, -, -, h⟩ | ⟨-, r, b, -, h⟩ <;>
  · rw [h]; constructor <;> rfl

/-- An operation that carries a start is always allowed (R121). -/
@[simp] theorem mayTransfer_start (t : Status) (dir : Dir) : t.mayTransfer dir true = true := rfl

theorem mayTransfer_eq_true_iff (t : Status) (dir : Dir) (start : Bool) :
    t.mayTransfer dir start = true ↔ start = true ∨ (t.held = true ∧ t.hdir = dir) := by
  cases start <;> simp [Status.mayTransfer]

end Sys2Proof.Machine
end

