-- ==== Sys2Proof/Laws/Classifier.lean ====
section
/-! SUPPORT. What the stages of a classification do, said once (R181, R186, R190 to R192): each as an update of the
state before, with the events it appends. -/

namespace Sys2Proof.Machine

/-- One blink: four events, the lamp off (R190). -/
theorem blinkOnce_run (i : Accel) (s : State) :
    (blinkOnce i).run s = .ret () { s with
      cls := { s.cls with lamp := .off }
      events := s.events ++ [.lamp i.lamp, .delay s.params.blinkDelay, .lamp .off, .delay s.params.blinkDelay] } := by
  simp [blinkOnce, blinkDelay, setLamp, Prog.run_seq, State.emit]

theorem blinkEvents_succ (code : Lamp) (token : Token) (n : Nat) :
    blinkEvents code token (n + 1) =
      [.lamp code, .delay token, .lamp .off, .delay token] ++ blinkEvents code token n := by
  simp [blinkEvents, List.replicate_succ]

@[simp] theorem blinkEvents_zero (code : Lamp) (token : Token) : blinkEvents code token 0 = [] := rfl

/-- `n` blinks: their events; of the registers at most the lamp changes (R190). -/
theorem blinks_run (i : Accel) (n : Nat) (s : State) :
    ∃ l, (blinks i n).run s = .ret () { s with
      cls := { s.cls with lamp := l }, events := s.events ++ blinkEvents i.lamp s.params.blinkDelay n } := by
  induction n generalizing s with
  | zero => exact ⟨s.cls.lamp, by simp [blinks]⟩
  | succ n ih =>
    obtain ⟨l, h⟩ := ih { s with
      cls := { s.cls with lamp := .off }
      events := s.events ++ [.lamp i.lamp, .delay s.params.blinkDelay, .lamp .off, .delay s.params.blinkDelay] }
    exact ⟨l, by rw [blinks, Prog.run_seq, blinkOnce_run, Proc.andThen_ret, h, blinkEvents_succ]; simp⟩

/-- The blink sequence of an axis whose flag is 1, nothing for one whose flag is 0 (R186). -/
theorem blinkIf_run (hit : Bool) (i : Accel) (s : State) :
    ∃ l, (blinkIf hit i).run s = .ret () { s with
      cls := { s.cls with lamp := l }
      events := s.events ++
        if hit then blinkEvents i.lamp s.params.blinkDelay s.params.blinkCount.toNat else [] } := by
  cases hit with
  | true => exact blinks_run i _ s
  | false => exact ⟨s.cls.lamp, by simp [blinkIf]⟩

/-- All the impact stage does: the three flags, the blink sequences in the order X, Y, Z, and some lamp (R186, R190). -/
theorem impact_run (s : State) :
    ∃ l, impact.run s = .ret () { s with
      cls := { s.cls with impact := impactFlags s.params s.f.accel s.p, lamp := l }
      events := s.events
        ++ (if (impactFlags s.params s.f.accel s.p).x
            then blinkEvents .x s.params.blinkDelay s.params.blinkCount.toNat else [])
        ++ (if (impactFlags s.params s.f.accel s.p).y
            then blinkEvents .y s.params.blinkDelay s.params.blinkCount.toNat else [])
        ++ (if (impactFlags s.params s.f.accel s.p).z
            then blinkEvents .z s.params.blinkDelay s.params.blinkCount.toNat else []) } := by
  unfold impact
  simp only [Prog.run_look, Prog.run_act, Prog.run_seq]
  obtain ⟨l, hx⟩ := blinkIf_run (impactFlags s.params s.f.accel s.p).x .x
    { s with cls := { s.cls with impact := impactFlags s.params s.f.accel s.p } }
  rw [hx, Proc.andThen_ret]
  obtain ⟨l', hy⟩ := blinkIf_run (impactFlags s.params s.f.accel s.p).y .y { s with
    cls := { s.cls with impact := impactFlags s.params s.f.accel s.p, lamp := l }
    events := s.events ++ if (impactFlags s.params s.f.accel s.p).x
      then blinkEvents Accel.x.lamp s.params.blinkDelay s.params.blinkCount.toNat else [] }
  dsimp only at hy ⊢
  rw [hy, Proc.andThen_ret]
  obtain ⟨l'', hz⟩ := blinkIf_run (impactFlags s.params s.f.accel s.p).z .z { s with
    cls := { s.cls with impact := impactFlags s.params s.f.accel s.p, lamp := l' }
    events := s.events ++ (if (impactFlags s.params s.f.accel s.p).x
      then blinkEvents Accel.x.lamp s.params.blinkDelay s.params.blinkCount.toNat else [])
      ++ if (impactFlags s.params s.f.accel s.p).y
        then blinkEvents Accel.y.lamp s.params.blinkDelay s.params.blinkCount.toNat else [] }
  dsimp only at hz ⊢
  rw [hz]
  exact ⟨l'', rfl⟩

/-- All the orientation stage does (R184, R191, R197). -/
theorem orient_run (s : State) :
    orient.run s = .ret () { s with
      cls := { s.cls with orient := orientResult s.params s.f.accel
                          lamp := (orientResult s.params s.f.accel).lamp }
      events := s.events ++ if s.params.orientEn then [.lamp (orientResult s.params s.f.accel).lamp] else [] } := by
  unfold orient orientResult
  rw [Prog.run_look]
  cases s.params.orientEn <;> simp [setLamp, State.emit, Orient.lamp]

/-- All `Classify()` does (R181): the prior frame, `CLASS` and the events; no other register. -/
theorem classify_run (s : State) :
    classify.run s = .ret () { s with
      p := s.f.accel
      cls := { orient := orientResult s.params s.f.accel
               impact := impactFlags s.params s.f.accel s.p
               lamp := (orientResult s.params s.f.accel).lamp }
      events := s.events ++
        classifyEvents s.params (impactFlags s.params s.f.accel s.p) (orientResult s.params s.f.accel) } := by
  unfold classify updatePrior
  obtain ⟨l, h⟩ := impact_run s
  rw [Prog.run_seq, h, Proc.andThen_ret, Prog.run_seq, orient_run]
  simp [classifyEvents, PerAxis.accel]

/-- The lamp is off when the orientation is Idle. -/
@[simp] theorem Orient.lamp_idle : Orient.idle.lamp = .off := rfl

/-- With `POLICY` = NONE no flag is set (R186). -/
theorem impactFlags_none {params : Params} (h : params.policy = .none) (a prior : Triple Sample) :
    impactFlags params a prior = ⟨false, false, false⟩ := by
  simp [impactFlags, impactHit, h]

end Sys2Proof.Machine
end

