-- ==== Sys2Proof/Laws/Encoding.lean ====
section
/-! SUPPORT. The command word as a number: what each field of R90 to R93 is of the word's value, and the value of each
format's word. Statements about encodings are then linear arithmetic. -/

namespace Sys2Proof

theorem toNat_append_add {n m : Nat} (x : BitVec n) (y : BitVec m) :
    (x ++ y).toNat = x.toNat * 2 ^ m + y.toNat := by
  rw [BitVec.toNat_append, Nat.shiftLeft_eq, Nat.mul_comm, ← Nat.two_pow_add_eq_or_of_lt y.isLt]

theorem toNat_extract {n : Nat} (x : BitVec n) (s l : Nat) :
    (x.extractLsb' s l).toNat = x.toNat / 2 ^ s % 2 ^ l := by
  rw [BitVec.extractLsb'_toNat, Nat.shiftRight_eq_div_pow]

theorem getLsbD_eq_decide {n : Nat} (x : BitVec n) (k : Nat) :
    x.getLsbD k = decide (x.toNat / 2 ^ k % 2 = 1) := by
  rw [BitVec.getLsbD, Nat.testBit_eq_decide_div_mod_eq]

theorem toNat_getLsbD {n : Nat} (x : BitVec n) (k : Nat) : (x.getLsbD k).toNat = x.toNat / 2 ^ k % 2 := by
  rw [getLsbD_eq_decide]
  rcases Nat.mod_two_eq_zero_or_one (x.toNat / 2 ^ k) with h | h <;> simp [h]

theorem extract_eq_iff {n : Nat} (x : BitVec n) (s l : Nat) (v : BitVec l) :
    x.extractLsb' s l = v ↔ x.toNat / 2 ^ s % 2 ^ l = v.toNat := by
  rw [← BitVec.toNat_inj, toNat_extract]

@[simp] theorem toNat_formatN (op : BitVec 4) : (formatN op).toNat = op.toNat * 2 ^ 28 := by
  unfold formatN
  rw [toNat_append_add]
  simp

theorem toNat_formatT (ack stop start run : Bool) (sa : SlaveAddr) (dir : Bool) (data : Byte) :
    (formatT ack stop start run sa dir data).toNat =
      2 ^ 28 + ack.toNat * 2 ^ 27 + stop.toNat * 2 ^ 26 + start.toNat * 2 ^ 25 + run.toNat * 2 ^ 24
        + sa.toNat * 2 ^ 17 + dir.toNat * 2 ^ 16 + data.toNat * 2 ^ 8 := by
  unfold formatT bit
  simp only [toNat_append_add, BitVec.toNat_ofBool]
  simp only [BitVec.toNat_ofNat]
  omega

theorem toNat_formatA (d : BitVec 3) (reg : Byte) :
    (formatA d reg).toNat = 3 * 2 ^ 28 + d.toNat * 2 ^ 16 + reg.toNat * 2 ^ 8 := by
  unfold formatA
  simp only [toNat_append_add]
  simp only [BitVec.toNat_ofNat]
  omega

end Sys2Proof
end

