-- ==== Sys2Proof/Laws/Flags.lean ====
section
/-! SUPPORT. The words of STATUS, CLASS and SEQ as numbers (R27, R32, R33): each field at the weight of its lowest bit. -/

namespace Sys2Proof.Machine

theorem Dir.toNat_toBit (d : Dir) : d.toBit.toNat = (decide (d = .read)).toNat := by cases d <;> rfl

theorem Status.toNat_toWord (t : Status) :
    t.toWord.toNat =
      t.busy.toNat + t.xbusy.toNat * 2 ^ 1 + t.err.toNat * 2 ^ 2 + t.nack.toNat * 2 ^ 3 + t.arblst.toNat * 2 ^ 4
        + t.held.toNat * 2 ^ 5 + (decide (t.hdir = .read)).toNat * 2 ^ 6 + t.fail.toNat * 2 ^ 7
        + t.initok.toNat * 2 ^ 8 + t.initfail.toNat * 2 ^ 9 + t.ill.toNat * 2 ^ 10 + t.seqf.toNat * 2 ^ 11
        + t.halt.toNat * 2 ^ 12 + t.deg.accelX.toNat * 2 ^ 13 + t.deg.accelY.toNat * 2 ^ 14
        + t.deg.accelZ.toNat * 2 ^ 15 + t.deg.gyroX.toNat * 2 ^ 16 + t.deg.gyroY.toNat * 2 ^ 17
        + t.deg.gyroZ.toNat * 2 ^ 18 := by
  simp only [Status.toWord, toNat_append_add, BitVec.toNat_ofBool, Dir.toNat_toBit, BitVec.toNat_ofNat]
  omega

theorem Classes.toNat_toWord (c : Classes) :
    c.toWord.toNat =
      c.orient.code.toNat + c.impact.x.toNat * 2 ^ 3 + c.impact.y.toNat * 2 ^ 4 + c.impact.z.toNat * 2 ^ 5
        + c.lamp.code.toNat * 2 ^ 6 := by
  simp only [Classes.toWord, toNat_append_add, BitVec.toNat_ofBool, BitVec.toNat_ofNat]
  omega

theorem Seq.toNat_toWord (q : Seq) :
    q.toWord.toNat =
      q.top.code.toNat + q.step.code.toNat * 2 ^ 4 + q.axi.number.toNat * 2 ^ 8 + q.phase.code.toNat * 2 ^ 11 := by
  simp only [Seq.toWord, toNat_append_add, BitVec.toNat_ofNat]
  omega

end Sys2Proof.Machine
end

