-- ==== Sys2Proof/Laws/Memory.lean ====
section
/-! SUPPORT. The optional sensor's register space: every operation keeps the canonical form, and a read after a write. -/

namespace Sys2Proof.Machine

/-- The canonical form, said of all entries at once. -/
theorem Memory.wf_cons {a : Nat} {v : BitVec 8} {rest : Memory} :
    Memory.wf ((a, v) :: rest) = true ↔
      a < 256 ∧ v ≠ Memory.unlisted ∧ (∀ c ∈ rest, a < c.1) ∧ Memory.wf rest = true := by
  induction rest generalizing a v with
  | nil => simp [Memory.wf]
  | cons c rest ih =>
    obtain ⟨b, w⟩ := c
    have h1 : Memory.wf ((a, v) :: (b, w) :: rest) = true ↔
        a < b ∧ v ≠ Memory.unlisted ∧ Memory.wf ((b, w) :: rest) = true := by
      simp [Memory.wf, and_assoc]
    rw [h1]
    constructor
    · rintro ⟨hab, hv, hw⟩
      have := ih.1 hw
      refine ⟨by omega, hv, ?_, hw⟩
      intro c hc
      rcases List.mem_cons.1 hc with rfl | hc
      · exact hab
      · have := this.2.2.1 c hc; omega
    · rintro ⟨_, hv, hall, hw⟩
      exact ⟨hall (b, w) (by simp), hv, hw⟩

theorem Memory.wf_nil : Memory.wf [] = true := rfl

theorem Memory.mem_erase {m : Memory} {n : Nat} {c : Host.Cell} (h : c ∈ m.erase n) : c ∈ m := by
  induction m with
  | nil => exact h
  | cons d rest ih =>
    obtain ⟨a, v⟩ := d
    by_cases hn : a = n
    · simp only [Memory.erase, hn, if_true] at h; exact List.mem_cons_of_mem _ h
    · simp only [Memory.erase, hn, if_false] at h
      rcases List.mem_cons.1 h with rfl | h
      · simp
      · exact List.mem_cons_of_mem _ (ih h)

theorem Memory.erase_wf {m : Memory} (h : m.wf = true) (n : Nat) : (m.erase n).wf = true := by
  induction m with
  | nil => rfl
  | cons d rest ih =>
    obtain ⟨a, v⟩ := d
    obtain ⟨ha, hv, hall, hw⟩ := Memory.wf_cons.1 h
    by_cases hn : a = n
    · simpa [Memory.erase, hn] using hw
    · simp only [Memory.erase, hn, if_false]
      exact Memory.wf_cons.2 ⟨ha, hv, fun c hc => hall c (Memory.mem_erase hc), ih hw⟩

theorem Memory.mem_insert {m : Memory} {n : Nat} {b : BitVec 8} {c : Host.Cell} (h : c ∈ m.insert n b) :
    c = (n, b) ∨ c ∈ m := by
  induction m with
  | nil => simpa [Memory.insert] using h
  | cons d rest ih =>
    obtain ⟨a, v⟩ := d
    by_cases h1 : n < a
    · simpa [Memory.insert, h1] using h
    · by_cases h2 : n = a
      · subst h2
        simp only [Memory.insert, Nat.lt_irrefl, if_false, if_true] at h
        rcases List.mem_cons.1 h with rfl | h
        · exact .inl rfl
        · exact .inr (List.mem_cons_of_mem _ h)
      · simp only [Memory.insert, h1, if_false, h2] at h
        rcases List.mem_cons.1 h with rfl | h
        · exact .inr (by simp)
        · rcases ih h with h | h
          · exact .inl h
          · exact .inr (List.mem_cons_of_mem _ h)

theorem Memory.insert_wf {m : Memory} (h : m.wf = true) {n : Nat} (hn : n < 256) {b : BitVec 8}
    (hb : b ≠ Memory.unlisted) : (m.insert n b).wf = true := by
  induction m with
  | nil => exact Memory.wf_cons.2 ⟨hn, hb, by simp, rfl⟩
  | cons d rest ih =>
    obtain ⟨a, v⟩ := d
    obtain ⟨ha, hv, hall, hw⟩ := Memory.wf_cons.1 h
    by_cases h1 : n < a
    · simp only [Memory.insert, h1, if_true]
      refine Memory.wf_cons.2 ⟨hn, hb, ?_, h⟩
      intro c hc
      rcases List.mem_cons.1 hc with rfl | hc
      · exact h1
      · have := hall c hc; omega
    · by_cases h2 : n = a
      · subst h2
        simp only [Memory.insert, Nat.lt_irrefl, if_false, if_true]
        exact Memory.wf_cons.2 ⟨ha, hb, hall, hw⟩
      · simp only [Memory.insert, h1, if_false, h2]
        refine Memory.wf_cons.2 ⟨ha, hv, ?_, ih hw⟩
        intro c hc
        rcases Memory.mem_insert hc with rfl | hc
        · show a < n; omega
        · exact hall c hc

/-- A write keeps the canonical form. -/
theorem Memory.write_wf {m : Memory} (h : m.wf = true) {n : Nat} (hn : n < 256) (b : BitVec 8) :
    (m.write n b).wf = true := by
  unfold Memory.write
  split
  · exact Memory.erase_wf h n
  · exact Memory.insert_wf h hn ‹_›

theorem Memory.read_unlisted {m : Memory} {n : Nat} (h : ∀ c ∈ m, n < c.1) : m.read n = Memory.unlisted := by
  induction m with
  | nil => rfl
  | cons d rest ih =>
    obtain ⟨a, v⟩ := d
    have : n < a := h (a, v) (by simp)
    simp only [Memory.read, show a ≠ n by omega, if_false]
    exact ih fun c hc => h c (List.mem_cons_of_mem _ hc)

theorem Memory.read_erase {m : Memory} (h : m.wf = true) (n k : Nat) :
    (m.erase n).read k = if k = n then Memory.unlisted else m.read k := by
  induction m with
  | nil => simp [Memory.erase, Memory.read]
  | cons d rest ih =>
    obtain ⟨a, v⟩ := d
    obtain ⟨-, -, hall, hw⟩ := Memory.wf_cons.1 h
    by_cases hn : a = n
    · subst hn
      by_cases hk : k = a
      · subst hk
        simpa [Memory.erase] using Memory.read_unlisted hall
      · simp [Memory.erase, Memory.read, hk, show a ≠ k from fun e => hk e.symm]
    · by_cases hk : a = k
      · subst hk; simp [Memory.erase, Memory.read, hn]
      · simp [Memory.erase, Memory.read, hn, hk, ih hw]

theorem Memory.read_insert (m : Memory) (n k : Nat) (b : BitVec 8) :
    (m.insert n b).read k = if k = n then b else m.read k := by
  induction m with
  | nil => simp [Memory.insert, Memory.read, eq_comm]
  | cons d rest ih =>
    obtain ⟨a, v⟩ := d
    by_cases h1 : n < a
    · simp [Memory.insert, h1, Memory.read, eq_comm]
    · by_cases h2 : n = a
      · subst h2
        by_cases hk : k = n
        · subst hk; simp [Memory.insert, Memory.read]
        · simp [Memory.insert, Memory.read, hk, show n ≠ k from fun e => hk e.symm]
      · by_cases hk : a = k
        · subst hk; simp [Memory.insert, h1, h2, Memory.read, show a ≠ n from fun e => h2 e.symm]
        · simp [Memory.insert, h1, h2, Memory.read, hk, ih]

/-- A read after a write: the byte written at that address, every other address as before. -/
theorem Memory.read_write {m : Memory} (h : m.wf = true) (n k : Nat) (b : BitVec 8) :
    (m.write n b).read k = if k = n then b else m.read k := by
  unfold Memory.write
  split
  · rename_i hb; rw [Memory.read_erase h, hb]
  · exact Memory.read_insert m n k b

/-- An answer of the optional sensor keeps its register space canonical. -/
theorem Sensor.answer_wf {n : Sensor} (h : n.cells.wf = true) (req : BusReq) : (n.answer req).2.cells.wf = true := by
  unfold Sensor.answer
  split
  · exact h
  · exact Memory.write_wf h n.ptr.isLt _
  · exact h

/-- The oracle keeps the optional sensor's register space canonical. -/
theorem Bus.answer_sensor {b : Bus} (req : BusReq) (h : ∀ n, b.sensor = some n → n.cells.wf = true) :
    ∀ n, (b.answer req).2.sensor = some n → n.cells.wf = true := by
  obtain ⟨script, asked, sensor⟩ := b
  cases script with
  | cons a rest => exact h
  | nil =>
    cases sensor with
    | none => exact h
    | some k =>
      intro n hn
      simp only [Bus.answer] at hn
      split at hn
      · cases hn; exact Sensor.answer_wf (h k rfl) req
      · cases hn; exact h k rfl

end Sys2Proof.Machine
end

