-- ==== Sys2Proof/Laws/SensorDriver.lean ====
section
/-! SUPPORT. What `Init` and `RdAx` can do, said once (R141, R144, R148): their cases over the answers of the bus, with
the state each ends in as a composition of byte operations. No case is a SequenceError. -/

namespace Sys2Proof.Machine

@[simp] theorem BusReq.of_select (slave : SlaveAddr) (reg : Byte) :
    BusReq.of slave .write reg true false false = selectReq slave reg := rfl
@[simp] theorem BusReq.of_high (slave : SlaveAddr) :
    BusReq.of slave .read 0 true false true = highReq slave := rfl
@[simp] theorem BusReq.of_low (slave : SlaveAddr) :
    BusReq.of slave .read 0 false true false = lowReq slave := rfl
theorem BusReq.of_power (params : Params) :
    BusReq.of params.slaveAddr .write params.pwrReg true false false = powerReq params := rfl
@[simp] theorem BusReq.of_wake (params : Params) :
    BusReq.of params.slaveAddr .write params.wakeVal false true false = wakeReq params := rfl

/-- An operation that carries a start: never answered, an error, or success. -/
theorem xfer_start_cases (sa : SlaveAddr) (dir : Dir) (data : Byte) (stop ack : Bool) (s : State) :
    (∃ b, s.bus.answer (BusReq.of sa dir data true stop ack) = (.never, b) ∧
      (xfer sa dir data true stop ack).run s = .never (atWait s (BusReq.of sa dir data true stop ack) b)) ∨
    (∃ nack arb rdata b, (nack || arb) = true ∧
      s.bus.answer (BusReq.of sa dir data true stop ack) = (.complete nack arb rdata, b) ∧
      (xfer sa dir data true stop ack).run s =
        .ret .fail (afterError s (BusReq.of sa dir data true stop ack) nack arb rdata b)) ∨
    (∃ rdata b, s.bus.answer (BusReq.of sa dir data true stop ack) = (.complete false false rdata, b) ∧
      (xfer sa dir data true stop ack).run s =
        .ret (.ok (okByte dir data rdata)) (afterOk s (BusReq.of sa dir data true stop ack) rdata b)) := by
  rcases xfer_cases sa dir data true stop ack s with ⟨h, -⟩ | ⟨-, h⟩ | ⟨-, h⟩ | ⟨-, h⟩
  · simp at h
  · exact .inl h
  · exact .inr (.inl h)
  · exact .inr (.inr h)

/-- A continuation of an open transaction of its direction: the same three. -/
theorem xfer_continuation_cases {s : State} {dir : Dir} (hh : s.status.held = true) (hd : s.status.hdir = dir)
    (sa : SlaveAddr) (data : Byte) (stop ack : Bool) :
    (∃ b, s.bus.answer (BusReq.of sa dir data false stop ack) = (.never, b) ∧
      (xfer sa dir data false stop ack).run s = .never (atWait s (BusReq.of sa dir data false stop ack) b)) ∨
    (∃ nack arb rdata b, (nack || arb) = true ∧
      s.bus.answer (BusReq.of sa dir data false stop ack) = (.complete nack arb rdata, b) ∧
      (xfer sa dir data false stop ack).run s =
        .ret .fail (afterError s (BusReq.of sa dir data false stop ack) nack arb rdata b)) ∨
    (∃ rdata b, s.bus.answer (BusReq.of sa dir data false stop ack) = (.complete false false rdata, b) ∧
      (xfer sa dir data false stop ack).run s =
        .ret (.ok (okByte dir data rdata)) (afterOk s (BusReq.of sa dir data false stop ack) rdata b)) := by
  rcases xfer_cases sa dir data false stop ack s with ⟨h, -⟩ | ⟨-, h⟩ | ⟨-, h⟩ | ⟨-, h⟩
  · rw [Bool.eq_false_iff, Ne, mayTransfer_eq_true_iff] at h
    exact absurd (.inr ⟨hh, hd⟩) h
  · exact .inl h
  · exact .inr (.inl h)
  · exact .inr (.inr h)

/-! ### `Init` -/

/-- `Init` clears `INITOK` and stands at operation 0. -/
def initStart (s : State) : State :=
  { s with status := { s.status with initok := false }, seq := { s.seq with step := .op0 } }

/-- The state after operation 0 of `Init` succeeded, standing at operation 1. -/
def initSelected (s : State) (c : Byte) (b : Bus) : State :=
  (afterOk (initStart s) (powerReq s.params) c b).setStep .op1

/-- `INITFAIL` is recorded (R141). -/
def markInitFail (s : State) : State := { s with status := { s.status with initfail := true } }

/-- `INITOK` is recorded (R141). -/
def markInitOk (s : State) : State := { s with status := { s.status with initok := true } }

/-- Operation 1 of `Init`, then its outcome. -/
theorem initWake_run (s : State) :
    initWake.run s = ((xfer s.params.slaveAddr .write s.params.wakeVal false true false).run (s.setStep .op1)).andThen
      fun r t => match r with
        | .fail => .ret .fail (markInitFail t)
        | .ok _ => .ret .ok (markInitOk t) := by
  unfold initWake
  rw [Prog.run_act, Prog.run_look, Prog.run_bind]
  congr 1
  funext r t
  cases r <;> rfl

/-- Operation 0 of `Init`, then operation 1 or the failure. -/
theorem init_run (s : State) :
    init.run s = ((xfer s.params.slaveAddr .write s.params.pwrReg true false false).run (initStart s)).andThen
      fun r t => match r with
        | .fail => .ret .fail (markInitFail t)
        | .ok _ => initWake.run t := by
  unfold init
  rw [Prog.run_act, Prog.run_act, Prog.run_look, Prog.run_bind]
  congr 1
  funext r t
  cases r <;> rfl

theorem initWake_cases {s : State} (hh : s.status.held = true) (hd : s.status.hdir = .write) :
    (∃ b, s.bus.answer (wakeReq s.params) = (.never, b) ∧
      initWake.run s = .never (atWait (s.setStep .op1) (wakeReq s.params) b)) ∨
    (∃ nack arb r b, (nack || arb) = true ∧ s.bus.answer (wakeReq s.params) = (.complete nack arb r, b) ∧
      initWake.run s = .ret .fail (markInitFail (afterError (s.setStep .op1) (wakeReq s.params) nack arb r b))) ∨
    (∃ r b, s.bus.answer (wakeReq s.params) = (.complete false false r, b) ∧
      initWake.run s = .ret .ok (markInitOk (afterOk (s.setStep .op1) (wakeReq s.params) r b))) := by
  rw [initWake_run]
  rcases xfer_continuation_cases (s := s.setStep .op1) hh hd s.params.slaveAddr s.params.wakeVal true false with
    ⟨b, ha, hx⟩ | ⟨n, a, r, b, he, ha, hx⟩ | ⟨r, b, ha, hx⟩
  · exact .inl ⟨b, ha, by rw [hx]; rfl⟩
  · exact .inr (.inl ⟨n, a, r, b, he, ha, by rw [hx]; rfl⟩)
  · exact .inr (.inr ⟨r, b, ha, by rw [hx]; rfl⟩)

/-- All `Init` can do: two hangs, two failures, success. -/
theorem init_cases (s : State) :
    (∃ b, s.bus.answer (powerReq s.params) = (.never, b) ∧
      init.run s = .never (atWait (initStart s) (powerReq s.params) b)) ∨
    (∃ nack arb r b, (nack || arb) = true ∧ s.bus.answer (powerReq s.params) = (.complete nack arb r, b) ∧
      init.run s = .ret .fail (markInitFail (afterError (initStart s) (powerReq s.params) nack arb r b))) ∨
    (∃ c b, s.bus.answer (powerReq s.params) = (.complete false false c, b) ∧
      ((∃ b', b.answer (wakeReq s.params) = (.never, b') ∧
          init.run s = .never (atWait (initSelected s c b) (wakeReq s.params) b')) ∨
        (∃ nack arb r b', (nack || arb) = true ∧ b.answer (wakeReq s.params) = (.complete nack arb r, b') ∧
          init.run s = .ret .fail (markInitFail (afterError (initSelected s c b) (wakeReq s.params) nack arb r b'))) ∨
        (∃ r b', b.answer (wakeReq s.params) = (.complete false false r, b') ∧
          init.run s = .ret .ok (markInitOk (afterOk (initSelected s c b) (wakeReq s.params) r b'))))) := by
  rw [init_run]
  rcases xfer_start_cases s.params.slaveAddr .write s.params.pwrReg false false (initStart s) with
    ⟨b, ha, hx⟩ | ⟨n, a, r, b, he, ha, hx⟩ | ⟨c, b, ha, hx⟩
  · exact .inl ⟨b, ha, by rw [hx]; rfl⟩
  · exact .inr (.inl ⟨n, a, r, b, he, ha, by rw [hx]; rfl⟩)
  · refine .inr (.inr ⟨c, b, ha, ?_⟩)
    rw [hx]
    exact initWake_cases (s := afterOk (initStart s) (powerReq s.params) c b) rfl rfl

/-- Operation 0 of `Init` when it succeeds: operation 1 follows. -/
theorem init_selected {s : State} {c : Byte} {b : Bus}
    (ha : s.bus.answer (powerReq s.params) = (.complete false false c, b)) :
    init.run s = initWake.run (afterOk (initStart s) (powerReq s.params) c b) := by
  rw [init_run, xfer_ok (s := initStart s) (by rfl) ha]
  rfl

/-- Operation 0 of `Init` when it ends in an error: the sequence ends. -/
theorem init_error {s : State} {n a : Bool} {r : Byte} {b : Bus}
    (ha : s.bus.answer (powerReq s.params) = (.complete n a r, b)) (he : (n || a) = true) :
    init.run s = .ret .fail (markInitFail (afterError (initStart s) (powerReq s.params) n a r b)) := by
  rw [init_run, xfer_error (s := initStart s) (by rfl) ha he]
  rfl

/-- Operation 0 of `Init` when it is never answered. -/
theorem init_never {s : State} {b : Bus} (ha : s.bus.answer (powerReq s.params) = (.never, b)) :
    init.run s = .never (atWait (initStart s) (powerReq s.params) b) := by
  rw [init_run, xfer_never (s := initStart s) (by rfl) ha]
  rfl

/-! ### `RdAx` -/

/-- The state after the register select succeeded. -/
def axisSelected (s : State) (reg c : Byte) (b : Bus) : State :=
  afterOk (s.setStep .op0) (selectReq s.params.slaveAddr reg) c b

/-- The state after the high byte has been received. -/
def axisHigh (s : State) (reg c hi : Byte) (b b' : Bus) : State :=
  afterOk ((axisSelected s reg c b).setStep .op1) (highReq s.params.slaveAddr) hi b'

/-- The sample is stored (R144). -/
def storeSample (s : State) (d : Axis) (v : Sample) : State :=
  { s with f := s.f.set d v, status := { s.status with deg := s.status.deg.set d false } }

/-- Operation 2 of `RdAx`, then the sample or the failure. -/
theorem rdAxLow_run (d : Axis) (hi : Byte) (s : State) :
    (rdAxLow d hi).run s = ((xfer s.params.slaveAddr .read 0 false true false).run (s.setStep .op2)).andThen
      fun r t => match r with
        | .fail => .ret .fail (t.setDeg d true)
        | .ok lo => .ret .ok (storeSample t d (hi ++ lo)) := by
  unfold rdAxLow
  rw [Prog.run_act, Prog.run_look, Prog.run_bind]
  congr 1
  funext r t
  cases r <;> rfl

/-- Operation 1 of `RdAx`, then operation 2 or the failure. -/
theorem rdAxHigh_run (d : Axis) (s : State) :
    (rdAxHigh d).run s = ((xfer s.params.slaveAddr .read 0 true false true).run (s.setStep .op1)).andThen
      fun r t => match r with
        | .fail => .ret .fail (t.setDeg d true)
        | .ok hi => (rdAxLow d hi).run t := by
  unfold rdAxHigh
  rw [Prog.run_act, Prog.run_look, Prog.run_bind]
  congr 1
  funext r t
  cases r <;> rfl

/-- Operation 0 of `RdAx`, then operation 1 or the failure. -/
theorem rdAx_run (d : Axis) (reg : Byte) (s : State) :
    (rdAx d reg).run s = ((xfer s.params.slaveAddr .write reg true false false).run (s.setStep .op0)).andThen
      fun r t => match r with
        | .fail => .ret .fail (t.setDeg d true)
        | .ok _ => (rdAxHigh d).run t := by
  unfold rdAx
  rw [Prog.run_act, Prog.run_look, Prog.run_bind]
  congr 1
  funext r t
  cases r <;> rfl

theorem rdAxLow_cases (d : Axis) (hi : Byte) {s : State} (hh : s.status.held = true) (hd : s.status.hdir = .read) :
    (∃ b, s.bus.answer (lowReq s.params.slaveAddr) = (.never, b) ∧
      (rdAxLow d hi).run s = .never (atWait (s.setStep .op2) (lowReq s.params.slaveAddr) b)) ∨
    (∃ nack arb r b, (nack || arb) = true ∧
      s.bus.answer (lowReq s.params.slaveAddr) = (.complete nack arb r, b) ∧
      (rdAxLow d hi).run s =
        .ret .fail ((afterError (s.setStep .op2) (lowReq s.params.slaveAddr) nack arb r b).setDeg d true)) ∨
    (∃ lo b, s.bus.answer (lowReq s.params.slaveAddr) = (.complete false false lo, b) ∧
      (rdAxLow d hi).run s =
        .ret .ok (storeSample (afterOk (s.setStep .op2) (lowReq s.params.slaveAddr) lo b) d (hi ++ lo))) := by
  rw [rdAxLow_run]
  rcases xfer_continuation_cases (s := s.setStep .op2) hh hd s.params.slaveAddr 0 true false with
    ⟨b, ha, hx⟩ | ⟨n, a, r, b, he, ha, hx⟩ | ⟨r, b, ha, hx⟩
  · exact .inl ⟨b, ha, by rw [hx]; rfl⟩
  · exact .inr (.inl ⟨n, a, r, b, he, ha, by rw [hx]; rfl⟩)
  · exact .inr (.inr ⟨r, b, ha, by rw [hx]; rfl⟩)

/-- All `RdAx` can do: a hang or a failure at each of the three operations, or success. -/
theorem rdAx_cases (d : Axis) (reg : Byte) (s : State) :
    (∃ b, s.bus.answer (selectReq s.params.slaveAddr reg) = (.never, b) ∧
      (rdAx d reg).run s = .never (atWait (s.setStep .op0) (selectReq s.params.slaveAddr reg) b)) ∨
    (∃ nack arb r b, (nack || arb) = true ∧
      s.bus.answer (selectReq s.params.slaveAddr reg) = (.complete nack arb r, b) ∧
      (rdAx d reg).run s =
        .ret .fail ((afterError (s.setStep .op0) (selectReq s.params.slaveAddr reg) nack arb r b).setDeg d true)) ∨
    (∃ c b, s.bus.answer (selectReq s.params.slaveAddr reg) = (.complete false false c, b) ∧
      ((∃ b', b.answer (highReq s.params.slaveAddr) = (.never, b') ∧
          (rdAx d reg).run s =
            .never (atWait ((axisSelected s reg c b).setStep .op1) (highReq s.params.slaveAddr) b')) ∨
        (∃ nack arb r b', (nack || arb) = true ∧
          b.answer (highReq s.params.slaveAddr) = (.complete nack arb r, b') ∧
          (rdAx d reg).run s = .ret .fail ((afterError ((axisSelected s reg c b).setStep .op1)
            (highReq s.params.slaveAddr) nack arb r b').setDeg d true)) ∨
        (∃ hi b', b.answer (highReq s.params.slaveAddr) = (.complete false false hi, b') ∧
          ((∃ b'', b'.answer (lowReq s.params.slaveAddr) = (.never, b'') ∧
              (rdAx d reg).run s =
                .never (atWait ((axisHigh s reg c hi b b').setStep .op2) (lowReq s.params.slaveAddr) b'')) ∨
            (∃ nack arb r b'', (nack || arb) = true ∧
              b'.answer (lowReq s.params.slaveAddr) = (.complete nack arb r, b'') ∧
              (rdAx d reg).run s = .ret .fail ((afterError ((axisHigh s reg c hi b b').setStep .op2)
                (lowReq s.params.slaveAddr) nack arb r b'').setDeg d true)) ∨
            (∃ lo b'', b'.answer (lowReq s.params.slaveAddr) = (.complete false false lo, b'') ∧
              (rdAx d reg).run s = .ret .ok (storeSample (afterOk ((axisHigh s reg c hi b b').setStep .op2)
                (lowReq s.params.slaveAddr) lo b'') d (hi ++ lo))))))) := by
  rw [rdAx_run]
  rcases xfer_start_cases s.params.slaveAddr .write reg false false (s.setStep .op0) with
    ⟨b, ha, hx⟩ | ⟨n, a, r, b, he, ha, hx⟩ | ⟨c, b, ha, hx⟩
  · exact .inl ⟨b, ha, by rw [hx]; rfl⟩
  · exact .inr (.inl ⟨n, a, r, b, he, ha, by rw [hx]; rfl⟩)
  · refine .inr (.inr ⟨c, b, ha, ?_⟩)
    rw [hx, Proc.andThen_ret]
    dsimp only
    rw [rdAxHigh_run]
    rcases xfer_start_cases s.params.slaveAddr .read 0 false true ((axisSelected s reg c b).setStep .op1) with
      ⟨b', ha', hx'⟩ | ⟨n, a, r, b', he, ha', hx'⟩ | ⟨hi, b', ha', hx'⟩
    · exact .inl ⟨b', ha', by erw [hx']; rfl⟩
    · exact .inr (.inl ⟨n, a, r, b', he, ha', by erw [hx']; rfl⟩)
    · refine .inr (.inr ⟨hi, b', ha', ?_⟩)
      erw [hx']
      exact rdAxLow_cases d hi (s := axisHigh s reg c hi b b') rfl rfl

end Sys2Proof.Machine
end

