-- ==== Sys2Proof/Laws/SamplingCycle.lean ====
section
/-! SUPPORT. What the reads of a cycle can do, said once (R144, R161, R163, R172): a rule for carrying a property through
them, and their result when the bus completes every operation. -/

namespace Sys2Proof.Machine

/-! ### Properties of a procedure's end -/

/-- Where it returns, `R` holds; where it never returns, `N` holds of the state it waits in. -/
def Proc.Post {α : Type} (p : Proc α) (R N : State → Prop) : Prop :=
  match p with
  | .ret _ s => R s
  | .never s => N s

@[simp] theorem Proc.post_ret {α : Type} (a : α) (s : State) (R N : State → Prop) :
    (Proc.ret a s).Post R N ↔ R s := Iff.rfl
@[simp] theorem Proc.post_never {α : Type} (s : State) (R N : State → Prop) :
    (Proc.never s : Proc α).Post R N ↔ N s := Iff.rfl

/-- One read of a cycle, then the rest. -/
theorem readAxes_cons_run (i : Axis) (rest : List Axis) (s : State) :
    (readAxes (i :: rest)).run s =
      ((rdAx i (axisAddr s.params i)).run (s.setAxi i)).andThen fun _ t => (readAxes rest).run t := by
  rw [readAxes, Prog.run_act, Prog.run_look, Prog.run_seq]
  rfl

/-- What holds before each read of an axis and is kept by it holds after the reads; a hang leaves what a hang of one
read leaves (R163, R172). -/
theorem readAxes_post {R N : State → Prop}
    (h : ∀ i s, R s → ((rdAx i (axisAddr s.params i)).run (s.setAxi i)).Post R N) :
    ∀ (l : List Axis) (s : State), R s → ((readAxes l).run s).Post R N := by
  intro l
  induction l with
  | nil => exact fun s hs => hs
  | cons i rest ih =>
    intro s hs
    have := h i s hs
    rw [readAxes_cons_run]
    cases hr : (rdAx i (axisAddr s.params i)).run (s.setAxi i) with
    | never s' => rw [hr] at this; exact this
    | ret v s' => rw [hr] at this; exact ih s' this

/-- All the stages after the reads do (R161, R162). -/
theorem afterReads_run (s : State) :
    afterReads.run s = .ret () { s with
      p := s.f.accel
      cls := { orient := orientResult s.params s.f.accel
               impact := impactFlags s.params s.f.accel s.p
               lamp := (orientResult s.params s.f.accel).lamp }
      events := s.events
        ++ classifyEvents s.params (impactFlags s.params s.f.accel s.p) (orientResult s.params s.f.accel)
        ++ [.report (reportLine s.params.reportSet s.f), .delay s.params.cycleDelay] } := by
  rw [afterReads, Prog.run_seq, classify_run]
  simp [State.emit]

/-- The same for a whole cycle: classification, report and delay follow the reads (R161). -/
theorem cycle_post {R N : State → Prop} {s : State} (h : ((readAxes Axis.all).run s).Post R N) :
    (cycle.run s).Post (fun t => ∃ u, R u ∧ afterReads.run u = .ret () t) N := by
  rw [cycle, Prog.run_seq]
  cases hr : (readAxes Axis.all).run s with
  | never s' => rw [hr] at h; exact h
  | ret v s' =>
    rw [hr] at h
    rw [Proc.andThen_ret, afterReads_run]
    exact ⟨s', h, afterReads_run s'⟩

/-! ### The reads when every operation is answered -/

theorem Bus.serves_append (b b' : Bus) (x y : List (BusReq × BusAnswer)) :
    b.Serves (x ++ y) b' ↔ ∃ m, b.Serves x m ∧ m.Serves y b' := by
  induction x generalizing b with
  | nil => simp [Bus.Serves]
  | cons e rest ih => simp [Bus.Serves, ih, and_assoc]

/-- Any answers to any requests are some script's. -/
theorem Bus.serves_script (x : List (BusReq × BusAnswer)) (rest : List BusAnswer) (n : Nat) (sensor : Option Sensor) :
    (Bus.mk (x.map Prod.snd ++ rest) n sensor).Serves x (Bus.mk rest (n + x.length) sensor) := by
  induction x generalizing n with
  | nil => rfl
  | cons e l ih =>
    refine ⟨rfl, ?_⟩
    have h := ih (n + 1)
    rw [Nat.add_assoc, Nat.add_comm 1] at h
    exact h

theorem exchangeEvents_append (x y : List (BusReq × Completion)) :
    exchangeEvents (x ++ y) = exchangeEvents x ++ exchangeEvents y := by
  induction x with
  | nil => rfl
  | cons e rest ih => simp [exchangeEvents, ih]

theorem asAnswers_append (x y : List (BusReq × Completion)) : asAnswers (x ++ y) = asAnswers x ++ asAnswers y := by
  simp [asAnswers]

/-- The state the read of one axis leaves, the bus completing every operation issued as `o` says (R144, R146). -/
def afterAxis (s : State) (d : Axis) (reg : Byte) (o : AxisAnswers) (b : Bus) : State :=
  { s with
    f := match o.sample with | some v => s.f.set d v | none => s.f
    dr := o.finalDr reg
    xd := (o.last s.params.slaveAddr reg).1.descriptor
    status := { s.status with
      xbusy := false, err := o.sample.isNone, held := false, hdir := o.finalDir s.status.hdir
      nack := (o.last s.params.slaveAddr reg).2.nack, arblst := (o.last s.params.slaveAddr reg).2.arb
      deg := s.status.deg.set d o.sample.isNone }
    seq := { s.seq with step := o.lastStep, phase := .idle }
    events := s.events ++ exchangeEvents (o.exchange s.params.slaveAddr reg)
    bus := b }

/-- The outcome of the read (R144). -/
def AxisAnswers.verdict (o : AxisAnswers) : Verdict := match o.sample with | some _ => .ok | none => .fail

/-- What a read leaves in the frame: the sample on its own axis when all went well, every other register as before. -/
theorem afterAxis_get (s : State) (d : Axis) (reg : Byte) (o : AxisAnswers) (b : Bus) (i : Axis) :
    (afterAxis s d reg o b).f.get i = if i = d then o.sample.getD (s.f.get i) else s.f.get i := by
  unfold afterAxis
  dsimp only
  cases o.sample with
  | none => simp
  | some v => rw [PerAxis.get_set]; rfl

/-- What a read leaves in the degraded flags (R144, R146). -/
theorem afterAxis_deg (s : State) (d : Axis) (reg : Byte) (o : AxisAnswers) (b : Bus) (i : Axis) :
    (afterAxis s d reg o b).status.deg.get i = if i = d then o.sample.isNone else s.status.deg.get i :=
  PerAxis.get_set _ _ _ _

theorem Completion.isError_false {c : Completion} (h : c.isError = false) : c = ⟨false, false, c.rdata⟩ := by
  obtain ⟨n, a, r⟩ := c
  simp only [Completion.isError, Bool.or_eq_false_iff] at h
  rw [h.1, h.2]

theorem rdAx_serves (d : Axis) (reg : Byte) (o : AxisAnswers) (s : State) (b : Bus)
    (h : s.bus.Serves (asAnswers (o.exchange s.params.slaveAddr reg)) b) :
    (rdAx d reg).run s = .ret o.verdict (afterAxis s d reg o b) := by
  obtain ⟨c0, c1, c2⟩ := o
  rcases rdAx_cases d reg s with
    ⟨b0, ha, -⟩ | ⟨n, a, r, b0, he, ha, hx⟩ | ⟨c, b0, ha, hx⟩
  · exfalso
    unfold AxisAnswers.exchange at h
    dsimp only at h
    split at h
    · simp [asAnswers, Bus.Serves, ha, Completion.answer] at h
    · split at h <;> simp [asAnswers, Bus.Serves, ha, Completion.answer] at h
  · have hc0 : c0 = ⟨n, a, r⟩ := by
      unfold AxisAnswers.exchange at h
      dsimp only at h
      split at h
      · simp [asAnswers, Bus.Serves, ha, Completion.answer] at h
        obtain ⟨⟨rfl, rfl, rfl⟩, -⟩ := h; rfl
      · split at h <;>
        · simp [asAnswers, Bus.Serves, ha, Completion.answer] at h
          obtain ⟨⟨rfl, rfl, rfl⟩, -⟩ := h; rfl
    subst hc0
    have he' : Completion.isError ⟨n, a, r⟩ = true := he
    simp [AxisAnswers.exchange, he', asAnswers, Bus.Serves, ha, Completion.answer] at h
    subst h
    rw [hx]
    simp [AxisAnswers.verdict, AxisAnswers.sample, AxisAnswers.finalDr, AxisAnswers.finalDir, AxisAnswers.lastStep,
      AxisAnswers.last, afterAxis, AxisAnswers.exchange, he', exchangeEvents, afterError, selectReq, State.setDeg, State.flags]
  · have hc0 : c0 = ⟨false, false, c⟩ := by
      unfold AxisAnswers.exchange at h
      dsimp only at h
      split at h
      · simp [asAnswers, Bus.Serves, ha, Completion.answer] at h
        obtain ⟨⟨h1, h2, h3⟩, -⟩ := h; cases c0; simp_all
      · split at h <;>
        · simp [asAnswers, Bus.Serves, ha, Completion.answer] at h
          obtain ⟨⟨h1, h2, h3⟩, -⟩ := h; cases c0; simp_all
    subst hc0
    have e0 : Completion.isError ⟨false, false, c⟩ = false := rfl
    rcases hx with ⟨b1, ha1, -⟩ | ⟨n, a, r, b1, he, ha1, hx⟩ | ⟨hi, b1, ha1, hx⟩
    · exfalso
      simp only [AxisAnswers.exchange, e0, Bool.false_eq_true, if_false] at h
      split at h <;> simp [asAnswers, Bus.Serves, ha, ha1, Completion.answer] at h
    · have hc1 : c1 = ⟨n, a, r⟩ := by
        simp only [AxisAnswers.exchange, e0, Bool.false_eq_true, if_false] at h
        split at h <;>
        · simp [asAnswers, Bus.Serves, ha, ha1, Completion.answer] at h
          obtain ⟨⟨h1, h2, h3⟩, -⟩ := h; cases c1; simp_all
      subst hc1
      have he' : Completion.isError ⟨n, a, r⟩ = true := he
      simp [AxisAnswers.exchange, e0, he', asAnswers, Bus.Serves, ha, ha1, Completion.answer] at h
      subst h
      rw [hx]
      simp [AxisAnswers.verdict, AxisAnswers.sample, AxisAnswers.finalDr, AxisAnswers.finalDir, AxisAnswers.lastStep,
        AxisAnswers.last, afterAxis, AxisAnswers.exchange, e0, he', exchangeEvents, afterError, axisSelected, afterOk,
        selectReq, highReq, State.setDeg, State.flags]
    · have hc1 : c1 = ⟨false, false, hi⟩ := by
        simp only [AxisAnswers.exchange, e0, Bool.false_eq_true, if_false] at h
        split at h <;>
        · simp [asAnswers, Bus.Serves, ha, ha1, Completion.answer] at h
          obtain ⟨⟨h1, h2, h3⟩, -⟩ := h; cases c1; simp_all
      subst hc1
      have e1 : Completion.isError ⟨false, false, hi⟩ = false := rfl
      simp only [AxisAnswers.exchange, e0, e1, Bool.false_eq_true, if_false] at h
      rcases hx with ⟨b2, ha2, -⟩ | ⟨n, a, r, b2, he, ha2, hx⟩ | ⟨lo, b2, ha2, hx⟩
      · simp [asAnswers, Bus.Serves, ha, ha1, ha2, Completion.answer] at h
      · simp [asAnswers, Bus.Serves, ha, ha1, ha2, Completion.answer] at h
        obtain ⟨⟨h1, h2, h3⟩, h4⟩ := h
        obtain ⟨n', a', r'⟩ := c2
        subst h1 h2 h3 h4
        have he' : Completion.isError ⟨n, a, r⟩ = true := he
        rw [hx]
        simp [AxisAnswers.verdict, AxisAnswers.sample, AxisAnswers.finalDr, AxisAnswers.finalDir,
          AxisAnswers.lastStep, AxisAnswers.last, afterAxis, AxisAnswers.exchange, e0, e1, he', exchangeEvents,
          afterError, axisSelected, axisHigh, afterOk, selectReq, highReq, lowReq, State.setDeg, State.flags]
      · simp [asAnswers, Bus.Serves, ha, ha1, ha2, Completion.answer] at h
        obtain ⟨⟨h1, h2, h3⟩, h4⟩ := h
        obtain ⟨n', a', r'⟩ := c2
        subst h1 h2 h3 h4
        rw [hx]
        simp [AxisAnswers.verdict, AxisAnswers.sample, AxisAnswers.finalDr, AxisAnswers.finalDir,
          AxisAnswers.lastStep, AxisAnswers.last, afterAxis, AxisAnswers.exchange, Completion.isError, exchangeEvents,
          axisSelected, axisHigh, afterOk, selectReq, highReq, lowReq, storeSample]

/-- One read of a cycle, then the rest. -/
theorem readAxes_serves (i : Axis) (rest : List Axis) (o : AxisAnswers) (s : State) (b : Bus)
    (h : s.bus.Serves (asAnswers (o.exchange s.params.slaveAddr (axisAddr s.params i))) b) :
    (readAxes (i :: rest)).run s = (readAxes rest).run (afterAxis (s.setAxi i) i (axisAddr s.params i) o b) := by
  rw [readAxes_cons_run, rdAx_serves i (axisAddr s.params i) o (s.setAxi i) b h, Proc.andThen_ret]

end Sys2Proof.Machine
end

