-- ==== Sys2Proof/Laws/Frames.lean ====
section
/-! SUPPORT. Frames of the driver sequences and of the reads of a cycle, said once: what they leave alone, and the point
they end at (R129, R144, R148, R172). -/

namespace Sys2Proof.Machine

/-- An event of a byte operation (R120, R123). -/
def Event.IsBus (e : Event) : Prop :=
  (∃ q, e = .busReq q) ∨ (∃ n a r, e = .busResp n a r) ∨ e = .busStop true

/-- What driver sequences leave alone, whatever the bus answers: no rule of theirs writes these, none raises
SequenceError, and the history grows by bus events only. -/
structure BusWork (s t : State) : Prop where
  p : t.p = s.p
  cls : t.cls = s.cls
  params : t.params = s.params
  host : t.host = s.host
  portOut : t.portOut = s.portOut
  busy : t.status.busy = s.status.busy
  halt : t.status.halt = s.status.halt
  ill : t.status.ill = s.status.ill
  seqf : t.status.seqf = s.status.seqf
  fail : t.status.fail = s.status.fail
  top : t.seq.top = s.seq.top
  sensor : s.SensorWf → t.SensorWf
  history : ∃ es, t.events = s.events ++ es ∧ ∀ e ∈ es, e.IsBus

theorem BusWork.trans {s t u : State} (h : BusWork s t) (k : BusWork t u) : BusWork s u where
  p := k.p.trans h.p
  cls := k.cls.trans h.cls
  params := k.params.trans h.params
  host := k.host.trans h.host
  portOut := k.portOut.trans h.portOut
  busy := k.busy.trans h.busy
  halt := k.halt.trans h.halt
  ill := k.ill.trans h.ill
  seqf := k.seqf.trans h.seqf
  fail := k.fail.trans h.fail
  top := k.top.trans h.top
  sensor := k.sensor ∘ h.sensor
  history := by
    obtain ⟨es, he, hb⟩ := h.history
    obtain ⟨fs, hf, hc⟩ := k.history
    refine ⟨es ++ fs, by rw [hf, he, List.append_assoc], fun e hm => ?_⟩
    rcases List.mem_append.1 hm with hm | hm
    · exact hb e hm
    · exact hc e hm

/-- `SEQ.AXI` and `SEQ.STEP` and the outcome flags of `Init` aside, moving the sequencer is no bus work. -/
theorem BusWork.of_eq {s t : State} (h : t = { s with seq := { s.seq with step := t.seq.step, axi := t.seq.axi } }) :
    BusWork s t := by
  rw [h]
  constructor <;> first | rfl | exact id | exact ⟨[], by simp, by simp⟩

/-- The three outcomes of one byte operation are bus work. -/
theorem busWork_atWait {s : State} {q : BusReq} {b : Bus} (ha : s.bus.answer q = (.never, b)) :
    BusWork s (atWait s q b) := by
  constructor <;> try rfl
  · intro h n hn
    have := Bus.answer_sensor q h n
    rw [ha] at this
    exact this hn
  · exact ⟨_, rfl, by simp [Event.IsBus]⟩

theorem busWork_afterError {s : State} {q : BusReq} {n a : Bool} {r : Byte} {b : Bus}
    (ha : s.bus.answer q = (.complete n a r, b)) : BusWork s (afterError s q n a r b) := by
  constructor <;> try rfl
  · intro h k hk
    have := Bus.answer_sensor q h k
    rw [ha] at this
    exact this hk
  · refine ⟨_, rfl, ?_⟩
    rintro e he
    simp only [List.mem_cons, List.not_mem_nil, or_false] at he
    rcases he with rfl | rfl | rfl
    · exact .inl ⟨_, rfl⟩
    · exact .inr (.inl ⟨_, _, _, rfl⟩)
    · exact .inr (.inr rfl)

theorem busWork_afterOk {s : State} {q : BusReq} {r : Byte} {b : Bus}
    (ha : s.bus.answer q = (.complete false false r, b)) : BusWork s (afterOk s q r b) := by
  constructor <;> try rfl
  · intro h k hk
    have := Bus.answer_sensor q h k
    rw [ha] at this
    exact this hk
  · refine ⟨_, rfl, ?_⟩
    rintro e he
    simp only [List.mem_cons, List.not_mem_nil, or_false] at he
    rcases he with rfl | rfl
    · exact .inl ⟨_, rfl⟩
    · exact .inr (.inl ⟨_, _, _, rfl⟩)

/-- Where a driver sequence that returned stands (R34, R123): nothing outstanding, no open transaction, `ERR` the
disjunction of its causes (R29). -/
structure AtRest (t : State) : Prop where
  xbusy : t.status.xbusy = false
  held : t.status.held = false
  phase : t.seq.phase = .idle
  err : t.status.err = (t.status.nack || t.status.arblst)

/-- Where one that never returns stands (R122): waiting, with the error flags cleared. -/
structure AtWait (t : State) : Prop where
  xbusy : t.status.xbusy = true
  phase : t.seq.phase = .wait
  err : t.status.err = false
  nack : t.status.nack = false
  arblst : t.status.arblst = false

/-- All `Init` leaves alone and where it ends. -/
theorem init_frame (s : State) : (init.run s).Post
    (fun t => BusWork s t ∧ AtRest t ∧ t.f = s.f ∧ t.status.deg = s.status.deg ∧ t.seq.axi = s.seq.axi ∧
      (s.status.initfail = true → t.status.initfail = true))
    (fun t => BusWork s t ∧ AtWait t ∧ t.f = s.f ∧ t.status.deg = s.status.deg ∧ t.seq.axi = s.seq.axi ∧
      t.status.initfail = s.status.initfail) := by
  have w0 : BusWork s (initStart s) := by
    constructor <;> first | rfl | exact id | exact ⟨[], by simp [initStart], by simp⟩
  have mark : ∀ t, BusWork s t → BusWork s (markInitFail t) := fun t h => by
    obtain ⟨h1, h2, h3, h4, h5, h6, h7, h8, h9, h10, h11, h12, h13⟩ := h
    exact ⟨h1, h2, h3, h4, h5, h6, h7, h8, h9, h10, h11, h12, h13⟩
  have markOk : ∀ t, BusWork s t → BusWork s (markInitOk t) := fun t h => by
    obtain ⟨h1, h2, h3, h4, h5, h6, h7, h8, h9, h10, h11, h12, h13⟩ := h
    exact ⟨h1, h2, h3, h4, h5, h6, h7, h8, h9, h10, h11, h12, h13⟩
  have w1 : ∀ c b, s.bus.answer (powerReq s.params) = (.complete false false c, b) →
      BusWork s (initSelected s c b) := fun c b ha =>
    (w0.trans (busWork_afterOk (s := initStart s) ha)).trans (BusWork.of_eq rfl)
  rcases init_cases s with ⟨b, ha, hx⟩ | ⟨n, a, r, b, he, ha, hx⟩ | ⟨c, b, ha, ⟨b', ha', hx⟩ |
    ⟨n, a, r, b', he, ha', hx⟩ | ⟨r, b', ha', hx⟩⟩ <;> rw [hx]
  · exact ⟨w0.trans (busWork_atWait (s := initStart s) ha), ⟨rfl, rfl, rfl, rfl, rfl⟩, rfl, rfl, rfl, rfl⟩
  · exact ⟨mark _ (w0.trans (busWork_afterError (s := initStart s) ha)), ⟨rfl, rfl, rfl, he.symm⟩, rfl, rfl, rfl,
      fun _ => rfl⟩
  · exact ⟨(w1 c b ha).trans (busWork_atWait (s := initSelected s c b) ha'), ⟨rfl, rfl, rfl, rfl, rfl⟩, rfl, rfl, rfl,
      rfl⟩
  · exact ⟨mark _ ((w1 c b ha).trans (busWork_afterError (s := initSelected s c b) ha')), ⟨rfl, rfl, rfl, he.symm⟩,
      rfl, rfl, rfl, fun _ => rfl⟩
  · exact ⟨markOk _ ((w1 c b ha).trans (busWork_afterOk (s := initSelected s c b) ha')), ⟨rfl, rfl, rfl, rfl⟩, rfl,
      rfl, rfl, id⟩

/-- All `RdAx` leaves alone and where it ends. -/
theorem rdAx_frame (d : Axis) (reg : Byte) (s : State) : ((rdAx d reg).run s).Post
    (fun t => BusWork s t ∧ AtRest t ∧ t.seq.axi = s.seq.axi ∧ t.status.initok = s.status.initok ∧
      t.status.initfail = s.status.initfail ∧
      ∀ a, a ≠ d → t.f.get a = s.f.get a ∧ t.status.deg.get a = s.status.deg.get a)
    (fun t => BusWork s t ∧ AtWait t ∧ t.seq.axi = s.seq.axi ∧ t.status.initok = s.status.initok ∧
      t.status.initfail = s.status.initfail ∧ t.f = s.f ∧ t.status.deg = s.status.deg) := by
  have w0 : BusWork s (s.setStep .op0) := BusWork.of_eq rfl
  have deg : ∀ t b, BusWork s t → BusWork s (t.setDeg d b) := fun t b h => by
    obtain ⟨h1, h2, h3, h4, h5, h6, h7, h8, h9, h10, h11, h12, h13⟩ := h
    exact ⟨h1, h2, h3, h4, h5, h6, h7, h8, h9, h10, h11, h12, h13⟩
  have store : ∀ t v, BusWork s t → BusWork s (storeSample t d v) := fun t v h => by
    obtain ⟨h1, h2, h3, h4, h5, h6, h7, h8, h9, h10, h11, h12, h13⟩ := h
    exact ⟨h1, h2, h3, h4, h5, h6, h7, h8, h9, h10, h11, h12, h13⟩
  have w1 : ∀ c b, s.bus.answer (selectReq s.params.slaveAddr reg) = (.complete false false c, b) →
      BusWork s ((axisSelected s reg c b).setStep .op1) := fun c b ha =>
    (w0.trans (busWork_afterOk (s := s.setStep .op0) ha)).trans (BusWork.of_eq rfl)
  have w2 : ∀ c b hi b', s.bus.answer (selectReq s.params.slaveAddr reg) = (.complete false false c, b) →
      b.answer (highReq s.params.slaveAddr) = (.complete false false hi, b') →
      BusWork s ((axisHigh s reg c hi b b').setStep .op2) := fun c b hi b' ha ha' =>
    ((w1 c b ha).trans (busWork_afterOk (s := (axisSelected s reg c b).setStep .op1) ha')).trans (BusWork.of_eq rfl)
  have other : ∀ (q : PerAxis Bool) (b : Bool) (a : Axis), a ≠ d → (q.set d b).get a = q.get a := fun q b a h => by
    rw [PerAxis.get_set, if_neg h]
  have otherF : ∀ (q : PerAxis Sample) (b : Sample) (a : Axis), a ≠ d → (q.set d b).get a = q.get a := fun q b a h => by
    rw [PerAxis.get_set, if_neg h]
  rcases rdAx_cases d reg s with ⟨b, ha, hx⟩ | ⟨n, a, r, b, he, ha, hx⟩ | ⟨c, b, ha, ⟨b', ha', hx⟩ |
    ⟨n, a, r, b', he, ha', hx⟩ | ⟨hi, b', ha', ⟨b'', hb, hx⟩ | ⟨n, a, r, b'', he, hb, hx⟩ | ⟨lo, b'', hb, hx⟩⟩⟩ <;>
    rw [hx]
  · exact ⟨w0.trans (busWork_atWait (s := s.setStep .op0) ha), ⟨rfl, rfl, rfl, rfl, rfl⟩, rfl, rfl, rfl, rfl, rfl⟩
  · exact ⟨deg _ _ (w0.trans (busWork_afterError (s := s.setStep .op0) ha)), ⟨rfl, rfl, rfl, he.symm⟩, rfl, rfl, rfl,
      fun a h => ⟨rfl, other _ _ _ h⟩⟩
  · exact ⟨(w1 c b ha).trans (busWork_atWait (s := (axisSelected s reg c b).setStep .op1) ha'),
      ⟨rfl, rfl, rfl, rfl, rfl⟩, rfl, rfl, rfl, rfl, rfl⟩
  · exact ⟨deg _ _ ((w1 c b ha).trans (busWork_afterError (s := (axisSelected s reg c b).setStep .op1) ha')),
      ⟨rfl, rfl, rfl, he.symm⟩, rfl, rfl, rfl, fun a h => ⟨rfl, other _ _ _ h⟩⟩
  · exact ⟨(w2 c b hi b' ha ha').trans (busWork_atWait (s := (axisHigh s reg c hi b b').setStep .op2) hb),
      ⟨rfl, rfl, rfl, rfl, rfl⟩, rfl, rfl, rfl, rfl, rfl⟩
  · exact ⟨deg _ _ ((w2 c b hi b' ha ha').trans (busWork_afterError (s := (axisHigh s reg c hi b b').setStep .op2) hb)),
      ⟨rfl, rfl, rfl, he.symm⟩, rfl, rfl, rfl, fun a h => ⟨rfl, other _ _ _ h⟩⟩
  · exact ⟨store _ _ ((w2 c b hi b' ha ha').trans (busWork_afterOk (s := (axisHigh s reg c hi b b').setStep .op2) hb)),
      ⟨rfl, rfl, rfl, rfl⟩, rfl, rfl, rfl, fun a h => ⟨otherF _ _ _ h, other _ _ _ h⟩⟩

/-- All the reads of a cycle leave alone and where they end; they keep the outcome flags of `Init` (R161, R163, R172). -/
theorem readAxes_frame (l : List Axis) (s : State) (hl : l ≠ [] ∨ AtRest s) : ((readAxes l).run s).Post
    (fun t => BusWork s t ∧ AtRest t ∧ t.status.initok = s.status.initok ∧ t.status.initfail = s.status.initfail)
    (fun t => BusWork s t ∧ AtWait t ∧ t.status.initok = s.status.initok ∧
      t.status.initfail = s.status.initfail) := by
  induction l generalizing s with
  | nil =>
    exact ⟨BusWork.of_eq rfl, hl.resolve_left (fun h => h rfl), rfl, rfl⟩
  | cons i rest ih =>
    have h := rdAx_frame i (axisAddr s.params i) (s.setAxi i)
    have w : BusWork s (s.setAxi i) := BusWork.of_eq rfl
    rw [readAxes_cons_run]
    cases hr : (rdAx i (axisAddr s.params i)).run (s.setAxi i) with
    | never t =>
      rw [hr] at h
      exact ⟨w.trans h.1, h.2.1, h.2.2.2.1, h.2.2.2.2.1⟩
    | ret v t =>
      rw [hr] at h
      have k := ih t (.inr h.2.1)
      rw [Proc.andThen_ret]
      cases hk : (readAxes rest).run t with
      | never u =>
        rw [hk] at k
        exact ⟨(w.trans h.1).trans k.1, k.2.1, k.2.2.1.trans h.2.2.2.1, k.2.2.2.trans h.2.2.2.2.1⟩
      | ret x u =>
        rw [hk] at k
        exact ⟨(w.trans h.1).trans k.1, k.2.1, k.2.2.1.trans h.2.2.2.1, k.2.2.2.trans h.2.2.2.2.1⟩

/-! ### `SEQ.TOP` and the port are no concern of the procedures (R33, R38) -/

/-- `SEQ.TOP` and the words the register port has returned, set to something else. -/
def State.relabel (x : Top → Top) (h : List Word → List Word) (s : State) : State :=
  { s with seq := { s.seq with top := x s.seq.top }, portOut := h s.portOut }

variable (x : Top → Top) (h : List Word → List Word)

/-- One line that has nothing to do with either, and the rest. -/
theorem Prog.Ignores.act {α : Type} {g : State → State} {f : State → State} {p : Prog α} (hf : ∀ s, f (g s) = g (f s))
    (hp : p.Ignores g) : (Prog.act f p).Ignores g := ⟨hf, hp⟩

theorem Prog.Ignores.ret {α : Type} (g : State → State) (a : α) : (Prog.ret a).Ignores g := trivial

theorem forcedStop_ignores : forcedStop.Ignores (State.relabel x h) :=
  .act (fun _ => rfl) <| .act (fun _ => rfl) <| .act (fun _ => rfl) <| .ret _ _

theorem xferCompleted_ignores (dir : Dir) (stop nack arb : Bool) (rdata : Byte) :
    (xferCompleted dir stop nack arb rdata).Ignores (State.relabel x h) := by
  unfold xferCompleted
  refine .act (fun _ => rfl) <| .act (fun _ => rfl) <| .act (fun _ => rfl) ?_
  split
  · exact .act (fun _ => rfl) <| (forcedStop_ignores x h).seq <| .act (fun _ => rfl) <| .ret _ _
  · exact .act (fun _ => rfl) <| .act (fun _ => rfl) <| .act (fun _ => rfl) <| .act (fun _ => rfl)
      ⟨fun _ => rfl, fun _ => .ret _ _⟩

theorem xfer_ignores (sa : SlaveAddr) (dir : Dir) (data : Byte) (start stop ack : Bool) :
    (xfer sa dir data start stop ack).Ignores (State.relabel x h) := by
  refine ⟨fun _ => rfl, fun s => ?_⟩
  dsimp only
  split
  · exact .act (fun _ => rfl) <| .act (fun _ => rfl) <| .act (fun _ => rfl) <| .act (fun _ => rfl) <|
      .act (fun _ => rfl) <| .act (fun _ => rfl) <| .act (fun _ => rfl)
        ⟨fun _ => rfl, fun _ _ => rfl, xferCompleted_ignores x h dir stop⟩
  · exact .act (fun _ => rfl) <| .ret _ _

theorem initFailed_ignores : initFailed.Ignores (State.relabel x h) := .act (fun _ => rfl) <| .ret _ _

theorem init_ignores : init.Ignores (State.relabel x h) := by
  refine .act (fun _ => rfl) <| .act (fun _ => rfl) ⟨fun _ => rfl, fun s =>
    Prog.Ignores.bind (xfer_ignores x h _ _ _ _ _ _) fun r => ?_⟩
  cases r with
  | fail => exact initFailed_ignores x h
  | ok c =>
    refine .act (fun _ => rfl) ⟨fun _ => rfl, fun s => Prog.Ignores.bind (xfer_ignores x h _ _ _ _ _ _) fun r => ?_⟩
    cases r with
    | fail => exact initFailed_ignores x h
    | ok c => exact .act (fun _ => rfl) <| .ret _ _

theorem rdAx_ignores (d : Axis) (reg : Byte) : (rdAx d reg).Ignores (State.relabel x h) := by
  have failed : (rdAxFailed d).Ignores (State.relabel x h) := .act (fun _ => rfl) <| .ret _ _
  have low : ∀ hi, (rdAxLow d hi).Ignores (State.relabel x h) := by
    intro hi
    refine .act (fun _ => rfl) ⟨fun _ => rfl, fun s => Prog.Ignores.bind (xfer_ignores x h _ _ _ _ _ _) fun r => ?_⟩
    cases r with
    | fail => exact failed
    | ok lo => exact .act (fun _ => rfl) <| .act (fun _ => rfl) <| .ret _ _
  refine .act (fun _ => rfl) ⟨fun _ => rfl, fun s => Prog.Ignores.bind (xfer_ignores x h _ _ _ _ _ _) fun r => ?_⟩
  cases r with
  | fail => exact failed
  | ok c =>
    refine .act (fun _ => rfl) ⟨fun _ => rfl, fun s => Prog.Ignores.bind (xfer_ignores x h _ _ _ _ _ _) fun r => ?_⟩
    cases r with
    | fail => exact failed
    | ok hi => exact low hi

theorem setLamp_ignores (code : Lamp) : (setLamp code).Ignores (State.relabel x h) :=
  .act (fun _ => rfl) <| .act (fun _ => rfl) <| .ret _ _

theorem blinks_ignores (i : Accel) (n : Nat) : (blinks i n).Ignores (State.relabel x h) := by
  have delay : blinkDelay.Ignores (State.relabel x h) := .act (fun _ => rfl) <| .ret _ _
  induction n with
  | zero => exact .ret _ _
  | succ n ih => exact ((setLamp_ignores x h _).seq <| delay.seq <| (setLamp_ignores x h _).seq delay).seq ih

theorem blinkIf_ignores (hit : Bool) (i : Accel) : (blinkIf hit i).Ignores (State.relabel x h) := by
  cases hit with
  | true => exact ⟨fun _ => rfl, fun s => blinks_ignores x h i _⟩
  | false => exact .ret _ _

theorem classify_ignores : classify.Ignores (State.relabel x h) := by
  have orient : orient.Ignores (State.relabel x h) := by
    refine ⟨fun _ => rfl, fun s => ?_⟩
    dsimp only
    split
    · exact .act (fun _ => rfl) <| setLamp_ignores x h _
    · exact .act (fun _ => rfl) <| .ret _ _
  have impact : impact.Ignores (State.relabel x h) := ⟨fun _ => rfl, fun s => .act (fun _ => rfl) <|
    (blinkIf_ignores x h _ _).seq <| (blinkIf_ignores x h _ _).seq <| blinkIf_ignores x h _ _⟩
  exact impact.seq <| orient.seq <| .act (fun _ => rfl) <| .act (fun _ => rfl) <| .act (fun _ => rfl) <| .ret _ _

theorem readAxes_ignores (l : List Axis) : (readAxes l).Ignores (State.relabel x h) := by
  induction l with
  | nil => exact .ret _ _
  | cons i rest ih =>
    exact .act (fun _ => rfl) ⟨fun _ => rfl, fun s => Prog.Ignores.seq (rdAx_ignores x h i _) ih⟩

theorem cycle_ignores : cycle.Ignores (State.relabel x h) :=
  (readAxes_ignores x h _).seq <| (classify_ignores x h).seq <| .act (fun _ => rfl) <| .act (fun _ => rfl) <| .ret _ _

/-- The state with another `TOP`. -/
def State.withTop (s : State) (x : Top) : State := { s with seq := { s.seq with top := x } }

/-- A cycle does the same whatever `TOP` is: CYCLE's, or one of RUN's loop (R35). -/
theorem cycle_withTop (s : State) (x : Top) :
    cycle.run (s.withTop x) = (cycle.run s).map fun t => t.withTop x :=
  (cycle_ignores (fun _ => x) id).run s

end Sys2Proof.Machine
end

