-- ==== Sys2Proof/Laws/PerInstr.lean ====
section
/-! SUPPORT. The family EncodingPattern, one lemma per instruction (R90, R94): its word carries the opcode of its row in
bits 31 to 28, and zero in bits 7 to 0, which no format uses. -/

namespace Sys2Proof.Laws.EncodingPattern

open Sys2Proof

/-- The opcode of 30_encoding.md section 3 (R94). -/
def opcode : Instr → BitVec 4
  | .wrb _ _ _ _ => 1
  | .rdb _ _ _ _ => 1
  | .fstop => 1
  | .init => 2
  | .rdax _ _ => 3
  | .clsfy => 4
  | .cycle => 5
  | .run => 6

def Statement (i : Instr) : Prop := Field.op (encode i) = opcode i ∧ Field.low (encode i) = 0

theorem wrb (sa : SlaveAddr) (data : Byte) (start stop : Bool) : Statement (.wrb sa data start stop) := by
  unfold Statement Field.op Field.low
  rw [extract_eq_iff, extract_eq_iff]
  simp only [encode, opcode, toNat_formatT]
  have := sa.isLt
  have := data.isLt
  cases start <;> cases stop <;> simp <;> omega

theorem rdb (sa : SlaveAddr) (start ack stop : Bool) : Statement (.rdb sa start ack stop) := by
  unfold Statement Field.op Field.low
  rw [extract_eq_iff, extract_eq_iff]
  simp only [encode, opcode, toNat_formatT]
  have := sa.isLt
  cases start <;> cases ack <;> cases stop <;> simp <;> omega

theorem fstop : Statement .fstop := ⟨by decide, by decide⟩

theorem init : Statement .init := ⟨by decide, by decide⟩

theorem rdax (d : BitVec 3) (reg : Byte) : Statement (.rdax d reg) := by
  unfold Statement Field.op Field.low
  rw [extract_eq_iff, extract_eq_iff]
  simp only [encode, opcode, toNat_formatA]
  have := d.isLt
  have := reg.isLt
  simp
  omega

theorem clsfy : Statement .clsfy := ⟨by decide, by decide⟩

theorem cycle : Statement .cycle := ⟨by decide, by decide⟩

theorem run : Statement .run := ⟨by decide, by decide⟩

end Sys2Proof.Laws.EncodingPattern
end

