-- ==== Sys2Proof/Laws/Points.lean ====
section
/-! SUPPORT. What holds at every point inside a command (R28, R38, R240): no line of a procedure writes `BUSY`, `TOP`, the
parameters or the host's side, and the bus moves by answering requests only. -/

namespace Sys2Proof.Machine

/-- `P` says nothing of what a procedure writes. -/
structure Unwritten (P : State → Prop) : Prop where
  line : ∀ s t : State, t.params = s.params → t.host = s.host → t.portOut = s.portOut → t.bus = s.bus →
    t.status.busy = s.status.busy → t.seq.top = s.seq.top → P s → P t
  answer : ∀ (s : State) (req : BusReq), P s → P { s with bus := (s.bus.answer req).2 }

/-- `BUSY` = 1. -/
theorem Unwritten.busy : Unwritten fun s => s.status.busy = true where
  line := fun _ _ _ _ _ _ h _ hs => h.trans hs
  answer := fun _ _ hs => hs

/-- The parameters, the host's side and the canonical form of the optional sensor. -/
structure Environment (params : Params) (host : List HostAction) (portOut : List Word) (s : State) : Prop where
  params : s.params = params
  host : s.host = host
  portOut : s.portOut = portOut
  sensor : s.SensorWf

theorem Unwritten.environment (params : Params) (host : List HostAction) (portOut : List Word) :
    Unwritten (Environment params host portOut) where
  line := fun _ _ hp hh ho hb _ _ hs => ⟨hp.trans hs.params, hh.trans hs.host, ho.trans hs.portOut, by
    have := hs.sensor
    unfold State.SensorWf at this ⊢
    rwa [hb]⟩
  answer := fun _ req hs => ⟨hs.params, hs.host, hs.portOut, Bus.answer_sensor req hs.sensor⟩

variable {P : State → Prop}

/-- One line that `P` says nothing of, and the rest. -/
theorem Unwritten.act (h : Unwritten P) {α : Type} {f : State → State} {p : Prog α}
    (hf : ∀ s, (f s).params = s.params ∧ (f s).host = s.host ∧ (f s).portOut = s.portOut ∧ (f s).bus = s.bus ∧
      (f s).status.busy = s.status.busy ∧ (f s).seq.top = s.seq.top)
    (hp : p.Keeps P) : (Prog.act f p).Keeps P :=
  ⟨fun s hs => h.line s (f s) (hf s).1 (hf s).2.1 (hf s).2.2.1 (hf s).2.2.2.1 (hf s).2.2.2.2.1 (hf s).2.2.2.2.2 hs, hp⟩

theorem Prog.Keeps.ret {α : Type} (a : α) : (Prog.ret a).Keeps P := trivial

theorem forcedStop_keeps (h : Unwritten P) : forcedStop.Keeps P :=
  h.act (fun _ => ⟨rfl, rfl, rfl, rfl, rfl, rfl⟩) <| h.act (fun _ => ⟨rfl, rfl, rfl, rfl, rfl, rfl⟩) <|
    h.act (fun _ => ⟨rfl, rfl, rfl, rfl, rfl, rfl⟩) <| .ret _

theorem xferCompleted_keeps (h : Unwritten P) (dir : Dir) (stop nack arb : Bool) (rdata : Byte) :
    (xferCompleted dir stop nack arb rdata).Keeps P := by
  unfold xferCompleted
  refine h.act (fun _ => ⟨rfl, rfl, rfl, rfl, rfl, rfl⟩) <| h.act (fun _ => ⟨rfl, rfl, rfl, rfl, rfl, rfl⟩) <|
    h.act (fun _ => ⟨rfl, rfl, rfl, rfl, rfl, rfl⟩) ?_
  split
  · exact h.act (fun _ => ⟨rfl, rfl, rfl, rfl, rfl, rfl⟩) <| (forcedStop_keeps h).seq <|
      h.act (fun _ => ⟨rfl, rfl, rfl, rfl, rfl, rfl⟩) <| .ret _
  · exact h.act (fun _ => ⟨rfl, rfl, rfl, rfl, rfl, rfl⟩) <| h.act (fun _ => ⟨rfl, rfl, rfl, rfl, rfl, rfl⟩) <|
      h.act (fun _ => ⟨rfl, rfl, rfl, rfl, rfl, rfl⟩) <| h.act (fun _ => ⟨rfl, rfl, rfl, rfl, rfl, rfl⟩) <|
      fun _ => .ret _

theorem xfer_keeps (h : Unwritten P) (sa : SlaveAddr) (dir : Dir) (data : Byte) (start stop ack : Bool) :
    (xfer sa dir data start stop ack).Keeps P := by
  intro s
  dsimp only
  split
  · exact h.act (fun _ => ⟨rfl, rfl, rfl, rfl, rfl, rfl⟩) <| h.act (fun _ => ⟨rfl, rfl, rfl, rfl, rfl, rfl⟩) <|
      h.act (fun _ => ⟨rfl, rfl, rfl, rfl, rfl, rfl⟩) <| h.act (fun _ => ⟨rfl, rfl, rfl, rfl, rfl, rfl⟩) <|
      h.act (fun _ => ⟨rfl, rfl, rfl, rfl, rfl, rfl⟩) <| h.act (fun _ => ⟨rfl, rfl, rfl, rfl, rfl, rfl⟩) <|
      h.act (fun _ => ⟨rfl, rfl, rfl, rfl, rfl, rfl⟩) ⟨fun s => h.answer s _, xferCompleted_keeps h dir stop⟩
  · exact h.act (fun _ => ⟨rfl, rfl, rfl, rfl, rfl, rfl⟩) <| .ret _

theorem initFailed_keeps (h : Unwritten P) : initFailed.Keeps P :=
  h.act (fun _ => ⟨rfl, rfl, rfl, rfl, rfl, rfl⟩) <| .ret _

theorem init_keeps (h : Unwritten P) : init.Keeps P := by
  refine h.act (fun _ => ⟨rfl, rfl, rfl, rfl, rfl, rfl⟩) <| h.act (fun _ => ⟨rfl, rfl, rfl, rfl, rfl, rfl⟩) fun s =>
    (xfer_keeps h _ _ _ _ _ _).bind fun r => ?_
  cases r with
  | fail => exact initFailed_keeps h
  | ok c =>
    refine h.act (fun _ => ⟨rfl, rfl, rfl, rfl, rfl, rfl⟩) fun s => (xfer_keeps h _ _ _ _ _ _).bind fun r => ?_
    cases r with
    | fail => exact initFailed_keeps h
    | ok c => exact h.act (fun _ => ⟨rfl, rfl, rfl, rfl, rfl, rfl⟩) <| .ret _

theorem rdAxFailed_keeps (h : Unwritten P) (d : Axis) : (rdAxFailed d).Keeps P :=
  h.act (fun _ => ⟨rfl, rfl, rfl, rfl, rfl, rfl⟩) <| .ret _

theorem rdAxLow_keeps (h : Unwritten P) (d : Axis) (hi : Byte) : (rdAxLow d hi).Keeps P := by
  refine h.act (fun _ => ⟨rfl, rfl, rfl, rfl, rfl, rfl⟩) fun s => (xfer_keeps h _ _ _ _ _ _).bind fun r => ?_
  cases r with
  | fail => exact rdAxFailed_keeps h d
  | ok lo =>
    exact h.act (fun _ => ⟨rfl, rfl, rfl, rfl, rfl, rfl⟩) <| h.act (fun _ => ⟨rfl, rfl, rfl, rfl, rfl, rfl⟩) <| .ret _

theorem rdAx_keeps (h : Unwritten P) (d : Axis) (reg : Byte) : (rdAx d reg).Keeps P := by
  refine h.act (fun _ => ⟨rfl, rfl, rfl, rfl, rfl, rfl⟩) fun s => (xfer_keeps h _ _ _ _ _ _).bind fun r => ?_
  cases r with
  | fail => exact rdAxFailed_keeps h d
  | ok c =>
    refine h.act (fun _ => ⟨rfl, rfl, rfl, rfl, rfl, rfl⟩) fun s => (xfer_keeps h _ _ _ _ _ _).bind fun r => ?_
    cases r with
    | fail => exact rdAxFailed_keeps h d
    | ok hi => exact rdAxLow_keeps h d hi

theorem setLamp_keeps (h : Unwritten P) (code : Lamp) : (setLamp code).Keeps P :=
  h.act (fun _ => ⟨rfl, rfl, rfl, rfl, rfl, rfl⟩) <| h.act (fun _ => ⟨rfl, rfl, rfl, rfl, rfl, rfl⟩) <| .ret _

theorem blinks_keeps (h : Unwritten P) (i : Accel) (n : Nat) : (blinks i n).Keeps P := by
  have delay : blinkDelay.Keeps P := h.act (fun _ => ⟨rfl, rfl, rfl, rfl, rfl, rfl⟩) <| .ret _
  induction n with
  | zero => exact .ret _
  | succ n ih => exact ((setLamp_keeps h _).seq <| delay.seq <| (setLamp_keeps h _).seq delay).seq ih

theorem blinkIf_keeps (h : Unwritten P) (hit : Bool) (i : Accel) : (blinkIf hit i).Keeps P := by
  cases hit with
  | true => exact fun s => blinks_keeps h i _
  | false => exact .ret _

theorem classify_keeps (h : Unwritten P) : classify.Keeps P := by
  have orient : orient.Keeps P := by
    intro s
    dsimp only
    split
    · exact h.act (fun _ => ⟨rfl, rfl, rfl, rfl, rfl, rfl⟩) <| setLamp_keeps h _
    · exact h.act (fun _ => ⟨rfl, rfl, rfl, rfl, rfl, rfl⟩) <| .ret _
  have impact : impact.Keeps P := fun s => h.act (fun _ => ⟨rfl, rfl, rfl, rfl, rfl, rfl⟩) <|
    (blinkIf_keeps h _ _).seq <| (blinkIf_keeps h _ _).seq <| blinkIf_keeps h _ _
  exact impact.seq <| orient.seq <| h.act (fun _ => ⟨rfl, rfl, rfl, rfl, rfl, rfl⟩) <|
    h.act (fun _ => ⟨rfl, rfl, rfl, rfl, rfl, rfl⟩) <| h.act (fun _ => ⟨rfl, rfl, rfl, rfl, rfl, rfl⟩) <| .ret _

theorem readAxes_keeps (h : Unwritten P) (l : List Axis) : (readAxes l).Keeps P := by
  induction l with
  | nil => exact .ret _
  | cons i rest ih =>
    exact h.act (fun _ => ⟨rfl, rfl, rfl, rfl, rfl, rfl⟩) fun s => (rdAx_keeps h i _).seq ih

theorem cycle_keeps (h : Unwritten P) : cycle.Keeps P :=
  (readAxes_keeps h _).seq <| (classify_keeps h).seq <| h.act (fun _ => ⟨rfl, rfl, rfl, rfl, rfl, rfl⟩) <|
    h.act (fun _ => ⟨rfl, rfl, rfl, rfl, rfl, rfl⟩) <| .ret _

/-! ### Commands -/

/-- The two lines that end a command: before the last of them `P` holds still. -/
theorem Unwritten.ending (h : Unwritten P) (b : State → Bool) (k : Nat) (s t : State) (hs : P s)
    (ht : (Prog.act (fun s => s.setFail (b s)) (.act State.finish (.ret ()))).point k s = some t) : P t := by
  match k, ht with
  | 0, ht => cases ht; exact hs
  | 1, ht => cases ht; exact h.line s _ rfl rfl rfl rfl rfl rfl hs

/-- A point inside a command comes after its acceptance, and what no procedure writes is there as acceptance left it. -/
theorem program_point (h : Unwritten P) {i : Instr} {k : Nat} {s t : State}
    (hs : ∀ op, P (s.accept op)) (ht : (program i).point (k + 1) s = some t) : P t := by
  have driver : ∀ op (p : Prog Verdict), p.Keeps P → (progDriver op p).point (k + 1) s = some t → P t :=
    fun op p hp ht => hp.point_bind (fun a k s t hs ht => h.ending (fun _ => a = .fail) k s t hs ht) (hs op) ht
  have transfer : ∀ sa dir data start stop ack, (progXfer sa dir data start stop ack).point (k + 1) s = some t → P t := by
    intro sa dir data start stop ack ht
    match k, ht with
    | 0, ht => cases ht; exact hs _
    | k + 1, ht =>
      exact (xfer_keeps h _ _ _ _ _ _).point_bind (fun a k s t hs ht => h.ending (fun _ => a = .fail) k s t hs ht)
        (h.line (s.accept .xfer) ((s.accept .xfer).setStep .op0) rfl rfl rfl rfl rfl rfl (hs _)) ht
  cases i with
  | wrb => exact transfer _ _ _ _ _ _ ht
  | rdb => exact transfer _ _ _ _ _ _ ht
  | fstop =>
    refine (forcedStop_keeps h).point_bind (fun _ k s t hs ht => ?_) (hs _) ht
    match k, ht with
    | 0, ht => cases ht; exact hs
    | k + 1, ht =>
      exact h.ending (fun _ => false) k _ t (h.line s (s.setPhase .idle) rfl rfl rfl rfl rfl rfl hs) ht
  | init => exact driver _ _ (init_keeps h) ht
  | rdax d reg =>
    change (progRdax d reg).point (k + 1) s = some t at ht
    unfold progRdax at ht
    split at ht
    · exact driver _ _ (rdAx_keeps h _ _) ht
    · cases ht
  | clsfy =>
    exact (classify_keeps h).point_bind (fun _ k s t hs ht => h.ending (fun _ => false) k s t hs ht) (hs _) ht
  | cycle =>
    exact (cycle_keeps h).point_bind (fun _ k s t hs ht => h.ending (fun s => s.status.degraded) k s t hs ht) (hs _) ht
  | run =>
    refine (init_keeps h).point_bind (fun r k s t hs ht => ?_) (hs _) ht
    cases r with
    | ok => match k, ht with | 0, ht => cases ht; exact hs
    | fail =>
      match k, ht with
      | 0, ht => cases ht; exact hs
      | 1, ht => cases ht; exact h.line s _ rfl rfl rfl rfl rfl rfl hs
      | k + 2, ht =>
        change (if _ then _ else _ : Prog Unit).point k _ = some t at ht
        split at ht
        · match k, ht with | 0, ht => cases ht; exact h.line s _ rfl rfl rfl rfl rfl rfl hs
        · cases ht

/-- The words the register port has returned, set to something else. -/
def State.withPort (h : List Word → List Word) (s : State) : State := { s with portOut := h s.portOut }

/-- No command reads the words the port has returned, and none writes them (R38: a read "has no side effect"). -/
theorem program_ignores (h : List Word → List Word) (i : Instr) : (program i).Ignores (State.withPort h) := by
  have driver : ∀ op (p : Prog Verdict), p.Ignores (State.withPort h) → (progDriver op p).Ignores (State.withPort h) :=
    fun op p hp => .act (fun _ => rfl) <| hp.bind fun _ => .act (fun _ => rfl) <| .act (fun _ => rfl) <| .ret _ _
  have transfer : ∀ sa dir data start stop ack,
      (progXfer sa dir data start stop ack).Ignores (State.withPort h) := fun sa dir data start stop ack =>
    .act (fun _ => rfl) <| .act (fun _ => rfl) <| Prog.Ignores.bind (xfer_ignores id h _ _ _ _ _ _) fun _ =>
      .act (fun _ => rfl) <| .act (fun _ => rfl) <| .ret _ _
  cases i with
  | wrb => exact transfer _ _ _ _ _ _
  | rdb => exact transfer _ _ _ _ _ _
  | fstop =>
    exact .act (fun _ => rfl) <| Prog.Ignores.seq (forcedStop_ignores id h) <| .act (fun _ => rfl) <|
      .act (fun _ => rfl) <| .act (fun _ => rfl) <| .ret _ _
  | init => exact driver _ _ (init_ignores id h)
  | rdax d reg =>
    change (progRdax d reg).Ignores _
    unfold progRdax
    split
    · exact driver _ _ (rdAx_ignores id h _ _)
    · exact .act (fun _ => rfl) <| .ret _ _
  | clsfy =>
    exact .act (fun _ => rfl) <| Prog.Ignores.seq (classify_ignores id h) <| .act (fun _ => rfl) <|
      .act (fun _ => rfl) <| .ret _ _
  | cycle =>
    exact .act (fun _ => rfl) <| Prog.Ignores.seq (cycle_ignores id h) <| .act (fun _ => rfl) <|
      .act (fun _ => rfl) <| .ret _ _
  | run =>
    refine .act (fun _ => rfl) <| Prog.Ignores.bind (init_ignores id h) fun r => ?_
    cases r with
    | ok => exact .act (fun _ => rfl) <| .ret _ _
    | fail =>
      refine .act (fun _ => rfl) <| .act (fun _ => rfl) ⟨fun _ => rfl, fun s => ?_⟩
      dsimp only
      split
      · exact .act (fun _ => rfl) <| .ret _ _
      · exact .ret _ _

/-! ### The meanings are the programs run to their end -/

/-- `exec` runs the lines of a command to their end (R34). -/
theorem exec_eq_program (i : Instr) (s : State) : exec i s = .next ((program i).run s).final := by
  cases i <;> rfl

end Sys2Proof.Machine
end

