-- ==== Sys2Proof/Tests/Slice0.lean ====
section
/-! SUPPORT. Tests. Expected results come from spec/30_encoding.md section 7 and spec/95_test_vectors.md, or are worked out by
hand from the rule named; none was taken from the model's own answer. Then one witness for each statement that has
hypotheses: concrete values that meet all of them together. -/

namespace Sys2Proof.Tests

open Sys2Proof Sys2Proof.Machine

/-! ### Well-formedness (R93, R97) -/

theorem test_wellFormed_axis_5 : (Instr.rdax 5 0x45).wellFormed = true := by decide
theorem test_wellFormed_refuses_axis_6 : (Instr.rdax 6 0x3B).wellFormed = false := by decide
theorem test_wellFormed_refuses_axis_7 : (Instr.rdax 7 0x00).wellFormed = false := by decide
theorem test_wellFormed_others :
    [Instr.wrb 0x7F 0xFF true true, .rdb 0x7F true true true, .fstop, .init, .clsfy, .cycle, .run].all
      Instr.wellFormed = true := by decide

/-! ### Decoding: words written out from the formats of R91 to R93 -/

/-- OP 0001, ACK STOP START RUN = 0011, SA = 1101000 (0x68), DIR 0, DATA = 0x6B, 0 (95_test_vectors.md V6). -/
theorem test_decode_wrb :
    decode 0b0001_0_0_1_1_1101000_0_01101011_00000000 = .ok (.wrb 0x68 0x6B true false) := by decide

/-- Continuation with the stop: 0101 (V6 0x15D00000). -/
theorem test_decode_wrb_continuation :
    decode 0b0001_0_1_0_1_1101000_0_00000000_00000000 = .ok (.wrb 0x68 0x00 false true) := by decide

/-- ACK and START, DIR 1 (V6 0x1BD10000). -/
theorem test_decode_rdb :
    decode 0b0001_1_0_1_1_1101000_1_00000000_00000000 = .ok (.rdb 0x68 true true false) := by decide

/-- STOP alone (V6 0x15D10000). -/
theorem test_decode_rdb_continuation :
    decode 0b0001_0_1_0_1_1101000_1_00000000_00000000 = .ok (.rdb 0x68 false false true) := by decide

/-- CTL = 0100, all else 0 (R95). -/
theorem test_decode_fstop : decode 0b0001_0100_000000000000000000000000 = .ok .fstop := by decide

theorem test_decode_init : decode 0b0010_0000000000000000000000000000 = .ok .init := by decide

/-- OP 0011, 0, D = 101, REG = 0x45, 0 (section 7: 0x30054500). -/
theorem test_decode_rdax : decode 0b0011_000000000_101_01000101_00000000 = .ok (.rdax 5 0x45) := by decide

theorem test_decode_clsfy : decode 0b0100_0000000000000000000000000000 = .ok .clsfy := by decide
theorem test_decode_cycle : decode 0b0101_0000000000000000000000000000 = .ok .cycle := by decide
theorem test_decode_run : decode 0b0110_0000000000000000000000000000 = .ok .run := by decide

/-- The illegal words of V6, each with the test of R96 that refuses it first. -/
theorem test_decode_reserved_opcode :
    [0x00000000#32, 0x70000000, 0xFFFFFFFF].map decode = List.replicate 3 (.error .reservedOpcode) := by decide
theorem test_decode_reserved_bits :
    [0x13D06B01#32, 0x20000001, 0x48000000, 0x30083B00, 0x30003B01].map decode =
      List.replicate 5 (.error .nonzeroReservedBits) := by decide
theorem test_decode_no_transfer_form :
    [0x1BD06B00#32, 0x1FFEFF00, 0x1FFFFF00, 0x12D00000, 0x10000000, 0x14000100, 0x14020000, 0x14010000,
      0x11010100].map decode = List.replicate 9 (.error .noTransferForm) := by decide
theorem test_decode_no_such_axis :
    [0x30063B00#32, 0x30070000].map decode = List.replicate 2 (.error .noSuchAxis) := by decide

/-- R103, the row 0011 with DIR 0 against the row 1011 with DIR 0 and DIR 1. -/
theorem test_decode_ctl :
    decode 0x13000000 = .ok (.wrb 0 0 true false) ∧ decode 0x1B000000 = .error .noTransferForm ∧
      decode 0x1B010000 = .ok (.rdb 0 true true false) := by decide

/-- R95: INIT is the single word 0x20000000; the table gives it 32 bits. -/
theorem test_decodeTableWord :
    decodeTableWord 32 0x20000000 = some .init ∧ decodeTableWord 32 0x30063B00 = none := by decide

/-! ### Encoding and the assembler (section 7) -/

theorem test_encode :
    [Instr.wrb 0x68 0x6B true true, .rdb 0x68 false true false, .rdax 0 0x3B, .fstop, .run].map encode =
      [0x17D06B00, 0x19D10000, 0x30003B00, 0x14000000, 0x60000000] := by decide

theorem test_assemble_flags_in_any_order :
    (assemble "WRB 0x7F, 0xFF, P, S".toList).map encode = some 0x17FEFF00 ∧
      (assemble "RDB 104, A, S".toList).map encode = some 0x1BD10000 := by decide

theorem test_assemble_rdax :
    (assemble "RDAX F5, 0x45".toList).map encode = some 0x30054500 ∧ assemble "RDAX F6, 0x45".toList = none := by
  decide

/-- R102's table, second row: the read of an axis. -/
theorem test_expandCalls :
    expandCalls none [.writeByte 0x68 0x3B false, .readByte 0x68 true false, .readByte 0x68 false true] =
      [.wrb 0x68 0x3B true false, .rdb 0x68 true true false, .rdb 0x68 false false true] := by decide

/-! ### One step each -/

/-- A state right after reset with a scripted oracle (95_test_vectors.md, conventions). -/
def scripted (script : List BusAnswer) : State :=
  State.resetWith Params.ex1 { script := script, asked := 0, sensor := none } [] []

/-- `ok(b)` of the conventions. -/
def ok (b : Byte) : BusAnswer := .complete false false b

/-- The state one step after the host presents the word. -/
def present1 (w : Nat) (s : State) : Option State :=
  match step (s.withFetchWord 32 w) with
  | .next t => some t
  | .fault _ => none
  | .refused _ => none

/-- V8, row 1. -/
theorem test_wrb :
    (present1 0x17D06B00 (scripted [ok 0])).map (fun t => (t.dr, t.xd, t.status.toWord, t.events)) =
      some (0x6B, 0x7D06B, 0x00000000,
        [.busReq ⟨0x68, .write, 0x6B, true, true, false⟩, .busResp false false 0]) := by decide

/-- V8, row 4: both causes, one forced stop. -/
theorem test_wrb_error :
    (present1 0x13D06B00 (scripted [.complete true true 0])).map (fun t => (t.status.toWord, t.events)) =
      some (0x0000009C,
        [.busReq ⟨0x68, .write, 0x6B, true, false, false⟩, .busResp true true 0, .busStop true]) := by decide

/-- R33, R120, R123: the phases an errored byte operation goes through, as register reads inside the command show them:
IDLE before, ISSUE, WAIT, CHECK, ABORT, IDLE at the end. -/
theorem test_phases_inside_wrb :
    ((List.range 30).filterMap fun k => ((program (.wrb 0x68 0x6B true true)).point k
        (scripted [.complete true false 0])).map fun t => (t.portRead 3).extractLsb' 11 3).eraseReps =
      [0, 1, 2, 3, 4, 0] := by decide

/-- R38, R28: the host reads `STATUS` while RDB waits for its answer (7 lines after acceptance): `BUSY` and `XBUSY`. A
reset 5 lines later leaves zero and no event (R240). -/
theorem test_read_and_reset_inside_rdb :
    (match step { scripted [ok 0xA5] with host := [.during (some 0x17D10000) [(7, .read 1), (5, .reset)]] } with
      | .next t => some (t.portOut, t.status.toWord, t.dr, t.events, t.bus.script)
      | _ => none) = some ([0x3], 0, 0, [], []) := by decide

/-- R68 (1), R121: after a start to 0x68 that selects 0x40, a continuation with `sa` = 0x11 stores there. -/
theorem test_continuation_with_another_address :
    (((present1 0x13D04000 { scripted [] with bus := ⟨[], 0, some ⟨0x68, [], 0, false⟩⟩ }).bind
        (present1 0x11227700)).bind fun t => t.bus.sensor.map fun n => (n.cells, n.ptr, n.addressed)) =
      some ([(0x40, 0x77)], 0x40, true) := by decide

/-- V8, row 5. -/
theorem test_rdb :
    (present1 0x17D10000 (scripted [ok 0xA5])).map (fun t => (t.dr, t.xd, t.status.toWord)) =
      some (0xA5, 0x7D100, 0x00000040) := by decide

/-- V8, row 7: SequenceError. -/
theorem test_rdb_sequence_error :
    (present1 0x15D10000 (scripted [])).map (fun t => (t.dr, t.xd, t.status.toWord, t.events)) =
      some (0, 0, 0x00000880, []) := by decide

/-- V8, row 10: the hung point; FSTOP presented then is lost (R37). -/
theorem test_wrb_hangs :
    (present1 0x13D06B00 (scripted [.never])).map (fun t => (t.status.toWord, t.seq.toWord, (present1 0x14000000 t) == some t)) =
      some (0x00000003, 0x1001, true) := by decide

/-- V8, row 9. -/
theorem test_fstop :
    (present1 0x14000000 (scripted [])).map (fun t => (t.status.toWord, t.events)) =
      some (0x00000000, [.busStop true]) := by decide

/-- P1, command 1. -/
theorem test_init :
    (present1 0x20000000 (scripted [ok 0, ok 0])).map (fun t => (t.dr, t.xd, t.status.toWord, t.seq.toWord)) =
      some (0x00, 0x5D000, 0x00000100, 0x0010) := by decide

/-- The example of 41_sensor_driver.md R142. -/
theorem test_rdax :
    (present1 0x30003B00 (scripted [ok 0, ok 0xC0, ok 0x00])).map
        (fun t => (t.f.accelX, t.f.accelX.toInt, t.status.toWord, t.seq.toWord)) =
      some (0xC000, -16384, 0x00000040, 0x0020) := by decide

/-- P2b: arbitration lost on the low byte. -/
theorem test_rdax_failed :
    (present1 0x30003B00 ((scripted [ok 0, ok 0x12, .complete false true 0x34]).storeRegister 6 0x64)).map
        (fun t => (t.f.accelX, t.dr, t.xd, t.status.toWord, t.seq.toWord)) =
      some (0x0064, 0x12, 0x5D100, 0x000020D4, 0x0020) := by decide

/-- P8, step 4. -/
theorem test_clsfy :
    (present1 0x40000000
        (((scripted []).storeRegister 6 14000).storeRegister 7 100 |>.storeRegister 8 100)).map
        (fun t => (t.cls.toWord, t.p, t.status.toWord, t.events)) =
      some (0x41, ⟨0x36B0, 0x0064, 0x0064⟩, 0, [.lamp .x]) := by decide

/-- V9, row 1. -/
theorem test_clsfy_blinks :
    (present1 0x40000000 ((scripted []).storeRegister 6 30000)).map (fun t => (t.cls.toWord, t.events)) =
      some (0x0C, List.flatten (List.replicate 3 [.lamp .x, .delay 100, .lamp .off, .delay 100]) ++ [.lamp .off]) := by
  decide

/-- The script of P5. -/
def p5 : List BusAnswer :=
  [ok 0, ok 0x75, ok 0x30, ok 0, ok 0xFF, ok 0x38, .complete true false 0, ok 0, ok 0x00, ok 0x05, ok 0, ok 0xFF,
    ok 0xF6, ok 0, ok 0x00, ok 0x00]

/-- P5: an impact on X and a failed read of accelZ, which keeps 77. -/
theorem test_cycle :
    (present1 0x50000000 ((scripted p5).storeRegister 8 77)).map
        (fun t => (t.f, t.status.toWord, t.cls.toWord, t.seq.toWord, t.events.length)) =
      some (⟨0x7530, 0xFF38, 0x004D, 0x0005, 0xFFF6, 0x0000⟩, 0x000080C0, 0x0C, 0x0520, 48) := by decide +kernel

/-- P5: the report. -/
theorem test_cycle_report :
    ((present1 0x50000000 ((scripted p5).storeRegister 8 77)).map (fun t => t.events.drop 46)) =
      some [.report ("X: 30000 Y: -200 Z: 77 PSSI: 5 PHI: -10 RHO: 0\n".toList.map ascii), .delay 1000] := by
  decide +kernel

/-- P6. -/
theorem test_run_halts :
    (present1 0x60000000 (scripted [ok 0, .complete true false 0])).map
        (fun t => (t.status.toWord, t.seq.toWord, t.events.drop 4)) =
      some (0x0000128D, 0x0016, [.busStop true, .log .initFailed]) := by decide

/-- V7, rows 3 and 4. -/
theorem test_report_minimal :
    reportLine .minimal ⟨0xFFFF, 0x7FFF, 0x8000, 5, 0xFFF6, 0⟩ = "X: -1 Y: 32767 Z: -32768\n".toList.map ascii ∧
      reportLine .minimal ⟨0, 0, 0, 0, 0, 0⟩ =
        [0x58, 0x3A, 0x20, 0x30, 0x20, 0x59, 0x3A, 0x20, 0x30, 0x20, 0x5A, 0x3A, 0x20, 0x30, 0x0A] := by decide

/-- V2: the edges of the band and a second axis at BAND_LO. -/
theorem test_orientation_edges :
    [(⟨13107, 0, 0⟩ : Triple Sample), ⟨13106, 0, 0⟩, ⟨18022, 0, 0⟩, ⟨18023, 0, 0⟩, ⟨14000, 13106, 0⟩,
      ⟨14000, 13107, 0⟩, ⟨0, 0xC000, 0⟩, ⟨0, 0, 0xB99A⟩].map (orientation Params.ex1) =
      [.axisX, .noDominant, .axisX, .noDominant, .axisX, .noDominant, .axisY, .axisZ] := by decide

/-- V4: no wrap of the difference. -/
theorem test_delta_does_not_wrap :
    impactHit { Params.ex1 with policy := .delta } 0x8000 0x7FFF = true ∧
      impactHit { Params.ex1 with policy := .delta } 5000 (-3000) = false ∧
      impactHit { Params.ex1 with policy := .delta, deltaThr := 65535 } 0x8000 0x7FFF = false := by decide

/-! ### Witnesses: states -/

/-- A state in which every register holds something, a write transaction is open and the last classification flagged
X. -/
def busyLooking : State :=
  { scripted [ok 0, ok 0x12, ok 0x34] with
    f := ⟨0x7530, 0xFF38, 0x004D, 5, 0xFFF6, 1⟩
    p := ⟨1, 2, 3⟩
    dr := 0x3B
    xd := 0x3D03B
    status := { (scripted []).status with held := true, initok := true, initfail := true, ill := true, seqf := true }
    cls := { orient := .noDominant, impact := ⟨true, false, false⟩, lamp := .off }
    events := [.busReq ⟨0x68, .write, 0x3B, true, false, false⟩, .busResp false false 0] }

/-- The same, a read transaction open. -/
def readOpen : State :=
  { busyLooking with
    status := { busyLooking.status with hdir := .read }
    events := [.busReq ⟨0x68, .read, 0, true, false, true⟩, .busResp false false 0x3B] }

/-- Waiting for an answer that will not come (V8, row 10). -/
def hung : State :=
  { scripted [] with
    dr := 0x6B, xd := 0x3D06B
    status := { (scripted []).status with busy := true, xbusy := true }
    seq := { top := .xfer, step := .op0, axi := .accelX, phase := .wait }
    events := [.busReq ⟨0x68, .write, 0x6B, true, false, false⟩] }

/-- Halted (P6). -/
def halted : State :=
  { scripted [] with
    status := { (scripted []).status with busy := true, err := true, nack := true, fail := true, initfail := true
                                          halt := true }
    seq := { top := .run, step := .op1, axi := .accelX, phase := .idle } }

/-- In RUN's loop, the answers of a whole cycle to come. -/
def looping : State :=
  { scripted p5 with
    status := { (scripted []).status with busy := true, initok := true }
    seq := { top := .run, step := .op1, axi := .accelX, phase := .idle } }

theorem hung_is_hung : hung.Hung := ⟨rfl, rfl, rfl, rfl, .inl rfl⟩
theorem halted_is_halted : halted.Halted := ⟨rfl, rfl, rfl, rfl, rfl⟩
theorem looping_is_looping : looping.Looping := ⟨rfl, rfl, rfl, rfl, rfl⟩
theorem busyLooking_is_idle : busyLooking.Idle := ⟨rfl, rfl, rfl, rfl, rfl⟩

/-- An optional sensor with the pair 0x12, 0x34 at 0x3B. -/
def sensor : Sensor := { addr := 0x68, cells := [(0x3B, 0x12), (0x3C, 0x34)], ptr := 0, addressed := false }

theorem sensor_wf : sensor.cells.wf = true := by decide

/-- The bus answers from a script; what is asked does not matter. -/
theorem served (x : List (BusReq × BusAnswer)) (s : State) :
    ({ s with bus := { script := x.map Prod.snd, asked := 0, sensor := none } } : State).bus.Serves x
      { script := [], asked := 0 + x.length, sensor := none } := by
  have h := Bus.serves_script x [] 0 none
  rw [List.append_nil] at h
  exact h

/-! ### Witnesses: one for each statement that has hypotheses -/

/-- The answers of P5 by axis: accelZ fails at its select, every other read succeeds. -/
def answers : PerAxis AxisAnswers :=
  ⟨⟨⟨false, false, 0⟩, ⟨false, false, 0x75⟩, ⟨false, false, 0x30⟩⟩,
    ⟨⟨false, false, 0⟩, ⟨false, false, 0xFF⟩, ⟨false, false, 0x38⟩⟩,
    ⟨⟨true, false, 0⟩, ⟨false, false, 0⟩, ⟨false, false, 0⟩⟩,
    ⟨⟨false, false, 0⟩, ⟨false, false, 0⟩, ⟨false, false, 5⟩⟩,
    ⟨⟨false, false, 0⟩, ⟨false, false, 0xFF⟩, ⟨false, false, 0xF6⟩⟩,
    ⟨⟨false, false, 0⟩, ⟨false, false, 0⟩, ⟨false, false, 0⟩⟩⟩

theorem witness_ResetZeroesEveryRegister : ({ hung with host := [.reset] } : State).host = .reset :: [] := rfl

theorem witness_ResetLeavesIdleAndKeepsTheEnvironment :
    ({ looping with host := [.reset, .wait] } : State).host = .reset :: [.wait] := rfl

/-- A reset in the middle of a blink sequence (R242), in CYCLE and in a cycle of RUN's loop; and the other two clauses. -/
theorem witness_ResetInsideACommandAbandonsIt :
    ((State.work busyLooking (some 0x40000000)).point (1 + 6) busyLooking).isSome = true ∧
      (((scripted p5).work (some 0x50000000)).point (1 + 100) (scripted p5)).isSome = true ∧
      ((looping.work none).point (1 + 30) looping).isSome = true ∧
      busyLooking.status.busy = false ∧ decode 0x40000000 = .ok .clsfy ∧ looping.Looping :=
  ⟨by decide +kernel, by decide +kernel, by decide +kernel, rfl, by decide, looping_is_looping⟩

theorem witness_ResetStateMeetsInvariant :
    ∀ n : Sensor, (Bus.mk [] 0 (some sensor)).sensor = some n → n.cells.wf = true := by
  intro n h
  cases h
  exact sensor_wf

theorem witness_StepKeepsInvariant : busyLooking.Inv ∧ ∃ t, step busyLooking = .next t :=
  ⟨⟨.inl (.inl busyLooking_is_idle), 
      ⟨rfl, fun h => absurd h (by decide), fun h => absurd h (by decide)⟩,
      ⟨rfl, fun h => absurd h (by decide), fun h => absurd h (by decide)⟩, fun _ h => (nomatch h)⟩, _, rfl⟩

theorem witness_EventHistoryKeepsBusProtocol :
    (busyLooking.Quiescent ∨ busyLooking.Looping) ∧ busyLooking.BusConsistent ∧ ∃ t, step busyLooking = .next t :=
  ⟨.inl (.inl busyLooking_is_idle), ⟨⟨none, false, some .write⟩, rfl, rfl, rfl, rfl⟩, _, rfl⟩

theorem witness_EncodedInstructionDecodesBack :
    (Instr.rdax 5 0xFF).wellFormed = true ∧ (Instr.wrb 0x7F 0xFF true true).wellFormed = true := by decide

theorem witness_DecodedWordIsItsEncoding :
    decode 0x1FFF0000 = .ok (.rdb 0x7F true true true) ∧ decode 0x3005FF00 = .ok (.rdax 5 0xFF) := by decide

theorem witness_ExpandedCallsNeverRaiseSequenceError :
    ∃ t, exec ((Contract.readByte 0x68 true false).expand (if busyLooking.status.held then some busyLooking.status.hdir
      else none)) busyLooking = .next t := ⟨_, rfl⟩

theorem witness_StepRunsTheDecodedCommand :
    busyLooking.status.busy = false ∧ decode 0x1BD10000 = .ok (.rdb 0x68 true true false) ∧
      0x1BD10000 < 2 ^ 32 ∧ decodeTableWord 32 0x1BD10000 = some (.rdb 0x68 true true false) := by decide

theorem witness_IllegalCommandSetsIllAndFail :
    (scripted []).status.busy = false ∧ decode 0xFFFFFFFF = .error .reservedOpcode ∧
      decode 0x20000001 = .error .nonzeroReservedBits ∧ decode 0x12D00000 = .error .noTransferForm ∧
      decode 0x30063B00 = .error .noSuchAxis ∧ 5#3 < 6#3 ∧ 5#3 < 7#3 := by decide

theorem witness_BusyMachineLosesHostWrites : hung.status.busy = true ∧ looping.status.busy = true := by decide

/-- Numbers 5, 6, 14 and 15: below, at both ends of and above the writable registers. -/
theorem witness_IdleRegisterWriteReachesFrameAndPrior :
    busyLooking.status.busy = false ∧ (5 : BitVec 8) ≠ 0 ∧ (busyLooking.portWrite 5 0xAAAA1234) = busyLooking ∧
      (busyLooking.portWrite 6 0xAAAA1234).f.accelX = 0x1234 ∧ (busyLooking.portWrite 14 0xAAAA1234).p.z = 0x1234 ∧
      (busyLooking.portWrite 15 0xAAAA1234) = busyLooking := by decide

/-- Every clause of the read at the ends of its range of numbers. -/
theorem witness_RegisterReadReturnsTheRegister :
    [0, 1, 2, 3, 4, 5, 6, 11, 12, 14, 15, 255].map busyLooking.portRead =
      [0, 0xF20, 0x0C, 0, 0x3B, 0x3D03B, 0x7530, 1, 1, 3, 0, 0] := by decide

/-- A read while WRB waits for its answer; a point of CYCLE; the start and a later point of a cycle of RUN's loop. -/
theorem witness_HostActsInsideACommandLeaveItAlone :
    (((scripted [ok 0]).work (some 0x17D06B00)).point (1 + 7) (scripted [ok 0])).isSome = true ∧
      ((program .cycle).point (1 + 100) (scripted p5)).isSome = true ∧
      looping.Looping ∧ (cycle.point 0 looping).isSome = true ∧ (cycle.point 100 looping).isSome = true :=
  ⟨by decide +kernel, by decide +kernel, looping_is_looping, by decide +kernel, by decide +kernel⟩

theorem witness_FrameInsideACycleIsHalfOldHalfNew :
    ∃ (s : State) (b : Bus), s.bus.Serves (asAnswers (cycleExchange s.params answers)) b :=
  ⟨{ scripted [] with bus := ⟨(asAnswers (cycleExchange Params.ex1 answers)).map Prod.snd, 0, none⟩ }, _,
    served _ (scripted [])⟩

/-- Idle, hung and halted; with no action pending, with `wait` and with acts inside no command. -/
theorem witness_QuiescentMachineTakesNoStep :
    busyLooking.Quiescent ∧ busyLooking.host = [] ∧ hung.Quiescent ∧ halted.Quiescent ∧
      ({ hung with host := [.wait] } : State).Quiescent ∧
      ({ halted with host := [.during none [(0, .read 1)]] } : State).Quiescent :=
  ⟨.inl busyLooking_is_idle, rfl, .inr (.inl hung_is_hung), .inr (.inr halted_is_halted),
    .inr (.inl hung_is_hung), .inr (.inr halted_is_halted)⟩

theorem witness_OnlyResetLeavesHungAndHalted :
    (hung.Hung ∨ hung.Halted) ∧ hung.NoReset ∧ (∃ t, step hung = .next t) ∧
      (halted.Hung ∨ halted.Halted) ∧ halted.NoReset ∧ ∃ t, step halted = .next t :=
  ⟨.inl hung_is_hung, fun _ h => (nomatch h), ⟨_, rfl⟩, .inr halted_is_halted, fun _ h => (nomatch h), ⟨_, rfl⟩⟩

theorem witness_StepsKeepParameters : ∃ t, step { hung with host := [.reset] } = .next t := ⟨_, rfl⟩

theorem witness_StickyBitsSurviveEveryCommand :
    busyLooking.NoReset ∧ (∃ t, step busyLooking = .next t) ∧ busyLooking.status.ill = true ∧
      busyLooking.status.seqf = true ∧ busyLooking.status.initfail = true ∧
      halted.NoReset ∧ (∃ t, step halted = .next t) ∧ halted.status.halt = true :=
  ⟨fun _ h => (nomatch h), ⟨_, rfl⟩, rfl, rfl, rfl, fun _ h => (nomatch h), ⟨_, rfl⟩, rfl⟩

/-- Nothing open; a transaction of the other direction open, for each of the two. -/
theorem witness_UnmatchedContinuationRaisesSequenceError :
    ¬ ((scripted []).status.held = true ∧ (scripted []).status.hdir = .write) ∧
      ¬ (readOpen.status.held = true ∧ readOpen.status.hdir = .write) ∧
      ¬ (busyLooking.status.held = true ∧ busyLooking.status.hdir = .read) ∧
      (∃ t, exec (.wrb 0x68 0 true true) busyLooking = .next t) ∧
      ∃ t, exec (.rdb 0x68 true true true) busyLooking = .next t := by
  refine ⟨by decide, by decide, by decide, ⟨_, rfl⟩, _, rfl⟩

/-- A start; a continuation; for each direction. -/
theorem witness_ByteOperationCompletes :
    (true = true ∨ (busyLooking.status.held = true ∧ busyLooking.status.hdir = .write)) ∧
      (false = true ∨ (busyLooking.status.held = true ∧ busyLooking.status.hdir = .write)) ∧
      (busyLooking.bus.answer ⟨0x68, .write, 0x6B, false, true, false⟩).1 = .complete false false 0 ∧
      (false = true ∨ (readOpen.status.held = true ∧ readOpen.status.hdir = .read)) ∧
      (readOpen.bus.answer ⟨0x68, .read, 0, false, false, true⟩).1 = .complete false false 0 := by decide

theorem witness_ErroredByteOperationForcesStop :
    ((scripted [.complete true false 7]).bus.answer ⟨0x68, .write, 0x6B, true, true, false⟩).1 =
        .complete true false 7 ∧
      ((scripted [.complete false true 7]).bus.answer ⟨0x68, .read, 0, true, true, false⟩).1 =
        .complete false true 7 ∧ (true = true ∨ false = true) ∧ (false = true ∨ true = true) := by decide

theorem witness_UnansweredByteOperationHangs :
    ((scripted [.never]).bus.answer ⟨0x68, .write, 0x6B, true, true, false⟩).1 = .never ∧
      ((scripted [.never]).bus.answer ⟨0x68, .read, 0, true, true, false⟩).1 = .never := by decide

theorem witness_InitWakesTheSensor :
    (scripted [ok 0, ok 0]).bus.Serves
      [(powerReq Params.ex1, .complete false false 0), (wakeReq Params.ex1, .complete false false 0)]
      { script := [], asked := 2, sensor := none } := ⟨rfl, rfl, rfl⟩

theorem witness_FailedInitAbortsAndIsRecorded :
    (Completion.mk true false 0).isError = true ∧
      (scripted [.complete true false 0]).bus.Serves [(powerReq Params.ex1, (Completion.mk true false 0).answer)]
        { script := [], asked := 1, sensor := none } ∧
      (Completion.mk false false 0).isError = false ∧
      (scripted [ok 0, .complete true false 0]).bus.Serves
        [(powerReq Params.ex1, (Completion.mk false false 0).answer),
          (wakeReq Params.ex1, (Completion.mk true false 0).answer)]
        { script := [], asked := 2, sensor := none } :=
  ⟨rfl, ⟨rfl, rfl⟩, rfl, ⟨rfl, rfl, rfl⟩⟩

theorem witness_RdaxLoadsTheSample :
    busyLooking.bus.Serves
      [(selectReq 0x68 0x3B, .complete false false 0), (highReq 0x68, .complete false false 0x12),
        (lowReq 0x68, .complete false false 0x34)] { script := [], asked := 3, sensor := none } := ⟨rfl, rfl, rfl, rfl⟩

/-- A failure of each of the three operations. -/
theorem witness_FailedRdaxKeepsTheOldSample :
    ∀ o ∈ [AxisAnswers.mk ⟨true, false, 0⟩ ⟨false, false, 0⟩ ⟨false, false, 0⟩,
        ⟨⟨false, false, 0⟩, ⟨false, true, 0⟩, ⟨false, false, 0⟩⟩,
        ⟨⟨false, false, 0⟩, ⟨false, false, 0x12⟩, ⟨true, true, 0⟩⟩],
      o.sample = none ∧ ∃ (s : State) (b : Bus), s.bus.Serves (asAnswers (o.exchange s.params.slaveAddr 0x3B)) b := by
  intro o ho
  refine ⟨?_, { scripted [] with
    bus := ⟨(asAnswers (o.exchange 0x68 0x3B)).map Prod.snd, 0, none⟩ }, _, served _ (scripted [])⟩
  simp only [List.mem_cons, List.not_mem_nil, or_false] at ho
  rcases ho with rfl | rfl | rfl <;> rfl

/-- A hang at operation 1 of `Init` and at operation 2 of `RdAx`. -/
theorem witness_UnansweredDriverOperationHangs :
    (∃ (s : State) (b : Bus), s.status.halt = false ∧ s.bus.Serves
      (asAnswers [(powerReq s.params, ⟨false, false, 0⟩)] ++ [(wakeReq s.params, .never)]) b) ∧
    ∃ (s : State) (b : Bus), s.status.halt = false ∧ s.bus.Serves
      (asAnswers [(selectReq s.params.slaveAddr 0x3B, ⟨false, false, 0⟩), (highReq s.params.slaveAddr, ⟨false, false, 7⟩)]
        ++ [(lowReq s.params.slaveAddr, .never)]) b :=
  ⟨⟨scripted [ok 0, .never], _, rfl, rfl, rfl, rfl⟩, scripted [ok 0, ok 7, .never], _, rfl, rfl, rfl, rfl, rfl⟩

theorem witness_DriverSequencesNeverRaiseSequenceError :
    (∃ t, exec (.rdax 1 0x3D) busyLooking = .next t) ∧ looping.host = [] ∧ ∃ t, step looping = .next t :=
  ⟨⟨_, rfl⟩, rfl, _, rfl⟩

theorem witness_ComposedReadEqualsRdaxOnTheBus :
    (scripted [ok 0, ok 0xC0, ok 0]).bus.Serves
      [(selectReq 0x68 0x3B, .complete false false 0), (highReq 0x68, .complete false false 0xC0),
        (lowReq 0x68, .complete false false 0)] { script := [], asked := 3, sensor := none } := ⟨rfl, rfl, rfl, rfl⟩

theorem witness_RdaxReadsTwoConsecutiveCells :
    ∃ s : State, s.bus.script = [] ∧ s.bus.sensor = some sensor ∧ sensor.addr = s.params.slaveAddr ∧
      (0x3B : Byte) ≠ 0xFF ∧ (0xFE : Byte) ≠ 0xFF :=
  ⟨{ scripted [] with bus := ⟨[], 0, some sensor⟩ }, rfl, rfl, rfl, by decide, by decide⟩

theorem witness_InitStoresTheWakeValueInTheSensor :
    ∃ s : State, s.bus.script = [] ∧ s.bus.sensor = some sensor ∧ sensor.addr = s.params.slaveAddr ∧
      sensor.cells.wf = true :=
  ⟨{ scripted [] with bus := ⟨[], 0, some sensor⟩ }, rfl, rfl, rfl, sensor_wf⟩

/-- The open transaction addressed to the sensor, and to another slave. -/
theorem witness_ContinuationJoinsTheOpenTransaction :
    ∀ addressed : Bool, ∃ (s : State) (n : Sensor), s.bus.script = [] ∧ s.bus.sensor = some n ∧ n.cells.wf = true ∧
      n.addressed = addressed ∧ s.status.held = true ∧ s.status.hdir = .write :=
  fun addressed =>
    ⟨{ busyLooking with bus := ⟨[], 0, some { sensor with addressed := addressed }⟩ }, _, rfl, rfl, sensor_wf, rfl, rfl,
      rfl⟩

/-- Each clause: X, Y, Z dominant at an edge of the band, none; and the classifier off. -/
theorem witness_OrientationIsTheDominantAxis :
    (∃ t, exec .clsfy (scripted []) = .next t) ∧ (scripted []).params.orientEn = true ∧
      orientation Params.ex1 ⟨13107, 0, 0⟩ = .axisX ∧ orientation Params.ex1 ⟨0, 18022, 13106⟩ = .axisY ∧
      orientation Params.ex1 ⟨0, 0, 13107⟩ = .axisZ ∧ orientation Params.ex1 ⟨13107, 13107, 0⟩ = .noDominant ∧
      ({ Params.ex1 with orientEn := false } : Params).orientEn = false :=
  ⟨⟨_, rfl⟩, rfl, by decide, by decide, by decide, by decide, rfl⟩

theorem witness_OrderOfTestsCannotBeObserved : ∀ i : Accel, i ∈ [Accel.z, .y, .x] := by
  intro i
  cases i <;> simp

/-- The policy; a magnitude at the threshold and one above; the numbers of the source's example (S5). -/
theorem witness_AbsolutePolicyFlagsLargeMagnitudes :
    (scripted []).params.policy = .abs ∧ (∃ t, exec .clsfy (scripted []) = .next t) ∧
      impactHit Params.ex1 29491 0 = false ∧ impactHit Params.ex1 29492 0 = true ∧
      Params.ex1.policy = .abs ∧ Params.ex1.impactThr = 29491 :=
  ⟨rfl, ⟨_, rfl⟩, by decide, by decide, rfl, rfl⟩

theorem witness_DeltaPolicyFlagsLargeChanges :
    ∃ s : State, s.params.policy = .delta ∧ s.params.deltaThr = 65535 ∧ ∃ t, exec .clsfy s = .next t :=
  ⟨{ busyLooking with params := { Params.ex1 with policy := .delta, deltaThr := 65535 } }, rfl, rfl, _, rfl⟩

theorem witness_ClassificationIgnoresGyroscopeAndMemory :
    ∃ s s' : State, s ≠ s' ∧ s.params = s'.params ∧ s.f.accelX = s'.f.accelX ∧ s.f.accelY = s'.f.accelY ∧
      s.f.accelZ = s'.f.accelZ ∧ s.params.policy ≠ .delta ∧ (∃ t, exec .clsfy s = .next t) ∧
      ∃ t, exec .clsfy s' = .next t :=
  ⟨busyLooking, { busyLooking with f := { busyLooking.f with gyroX := 9 }, p := ⟨7, 7, 7⟩ }, by decide, rfl, rfl, rfl,
    rfl, by decide, ⟨_, rfl⟩, _, rfl⟩

theorem witness_BlinkingDelaysTwiceTheCountPerAxis : ∃ t, exec .clsfy busyLooking = .next t := ⟨_, rfl⟩

/-- R166 at the ends and around zero. -/
theorem witness_DecimalTextIsStandardBaseTen :
    [(-32768 : Int), -1, 0, 32767].map dec =
      ["-32768".toList.map ascii, "-1".toList.map ascii, "0".toList.map ascii, "32767".toList.map ascii] := by decide

/-- V5: without a wrap and with one. -/
theorem witness_AxisAddressesWrapModulo256 :
    axisAddr { Params.ex1 with axisBase := 0xF4 } .gyroZ = 0xFE ∧
      axisAddr { Params.ex1 with axisBase := 0xFA } .gyroX = 0x00 ∧
      axisAddr { Params.ex1 with axisBase := 0xFF } .gyroZ = 0x09 := by decide

theorem witness_CycleReadsClassifiesReportsAndDelays :
    (asAnswers (cycleExchange Params.ex1 answers)).map Prod.snd = p5 ∧
      ∃ (s : State) (b : Bus), s.bus.Serves (asAnswers (cycleExchange s.params answers)) b :=
  ⟨by decide, { scripted [] with bus := ⟨(asAnswers (cycleExchange Params.ex1 answers)).map Prod.snd, 0, none⟩ }, _,
    served _ (scripted [])⟩

theorem witness_HungCycleStopsWhereItHangs :
    ∃ t, exec .cycle (scripted [ok 0, ok 1, ok 2, ok 0, .never]) = .next t ∧ t.status.busy = true ∧
      t.seq.axi = .accelY := ⟨_, rfl, by decide, by decide⟩

/-- The same with accelZ read as well. -/
def goodAnswers : PerAxis AxisAnswers := { answers with accelZ := answers.accelX }

/-- The eighteen operations of such a cycle, with their answers. -/
def goodCycle : List (BusReq × BusAnswer) := asAnswers (cycleExchange Params.ex1 goodAnswers)

/-- A state whose script holds that cycle twice. -/
def twoCycles : State :=
  { scripted [] with bus := ⟨goodCycle.map Prod.snd ++ (goodCycle.map Prod.snd ++ []), 0, none⟩ }

theorem witness_RepeatedCycleIsIdempotent :
    (∀ i, (goodAnswers.get i).sample ≠ none) ∧
      ∃ b b' : Bus, twoCycles.bus.Serves (asAnswers (cycleExchange twoCycles.params goodAnswers)) b ∧
        b.Serves (asAnswers (cycleExchange twoCycles.params goodAnswers)) b' ∧
        ∃ t, exec .cycle twoCycles = .next t ∧ ∃ u, exec .cycle t = .next u :=
  ⟨by intro i; cases i <;> decide, _, _, Bus.serves_script goodCycle _ 0 none, Bus.serves_script goodCycle [] _ none,
    _, rfl, _, rfl⟩

theorem witness_RunEntersTheLoopAfterInit :
    (scripted [ok 0, ok 0]).status.halt = false ∧ (scripted [ok 0, ok 0]).bus.Serves
      [(powerReq Params.ex1, .complete false false 0), (wakeReq Params.ex1, .complete false false 0)]
      { script := [], asked := 2, sensor := none } := ⟨rfl, rfl, rfl, rfl⟩

/-- Both values of `INIT_FATAL`, a failure of each of the two operations. -/
theorem witness_RunAfterFailedInitHaltsOrProceeds :
    (Completion.mk true false 0).isError = true ∧
      ∀ fatal : Bool, ∃ s s' : State, s.params.initFatal = fatal ∧ s.status.halt = false ∧
        s.bus.Serves [(powerReq s.params, (Completion.mk true false 0).answer)] { script := [], asked := 1, sensor := none } ∧
        s'.params.initFatal = fatal ∧ s'.status.halt = false ∧
        s'.bus.Serves [(powerReq s'.params, (Completion.mk false false 0).answer),
          (wakeReq s'.params, (Completion.mk true false 0).answer)] { script := [], asked := 2, sensor := none } :=
  ⟨rfl, fun fatal =>
    ⟨{ scripted [.complete true false 0] with params := { Params.ex1 with initFatal := fatal } },
      { scripted [ok 0, .complete true false 0] with params := { Params.ex1 with initFatal := fatal } },
      rfl, rfl, ⟨rfl, rfl⟩, rfl, rfl, rfl, rfl, rfl⟩⟩

/-- A loop step that completes, and one that hangs, after a `wait`. -/
theorem witness_LoopStepIsOneCycle :
    (looping.Looping ∧ looping.host = [] ∧ ∃ t, exec .cycle looping = .next t ∧ t.status.xbusy = false) ∧
      ∃ s : State, s.Looping ∧ s.host = .wait :: [.reset] ∧ ∃ t, exec .cycle s = .next t ∧ t.status.xbusy = true :=
  ⟨⟨looping_is_looping, rfl, _, rfl, by decide +kernel⟩,
    { looping with bus := ⟨[.never], 0, none⟩, host := [.wait, .reset] }, ⟨rfl, rfl, rfl, rfl, rfl⟩, rfl, _, rfl,
    by decide⟩

theorem witness_RunNeverReturns :
    looping.Looping ∧ looping.NoReset ∧ ∃ t, step looping = .next t :=
  ⟨looping_is_looping, fun _ h => (nomatch h), _, rfl⟩

theorem witness_CommandsWriteOnlyTheirRegisters :
    (∃ t, exec .fstop busyLooking = .next t) ∧ (∃ t, exec .run busyLooking = .next t) ∧
      ∃ t, exec (.rdax 2 0x3F) busyLooking = .next t := ⟨⟨_, rfl⟩, ⟨_, rfl⟩, _, rfl⟩

end Sys2Proof.Tests
end

section
/-! What no command writes, whatever it is and however far it got: the parameters and the host's side (R8, R36, R38,
R241). A property of these alone is kept by every line of every program, and one of the parameters alone by every
step. -/

namespace Sys2Proof.Machine

/-- `P` says nothing but of the parameters, the host's pending actions and the words the port has returned. -/
def OfHostSide (P : State → Prop) : Prop :=
  ∀ s t : State, t.params = s.params → t.host = s.host → t.portOut = s.portOut → P s → P t

/-- The host's side of `t` is that of `s`. -/
structure SameHostSide (s t : State) : Prop where
  params : t.params = s.params
  host : t.host = s.host
  portOut : t.portOut = s.portOut

theorem ofHostSide_params (q : Params) : OfHostSide fun s => s.params = q :=
  fun _ _ hp _ _ hs => hp.trans hs

theorem ofHostSide_same (s : State) : OfHostSide (SameHostSide s) :=
  fun _ _ hp hh ho hs => ⟨hp.trans hs.params, hh.trans hs.host, ho.trans hs.portOut⟩

section
variable {P : State → Prop}

theorem OfHostSide.unwritten (h : OfHostSide P) : Unwritten P where
  line := fun s t hp hh ho _ _ _ => h s t hp hh ho
  answer := fun s _ => h s _ rfl rfl rfl

/-- One line that leaves the host's side alone, and the rest. -/
theorem OfHostSide.act (h : OfHostSide P) {α : Type} {f : State → State} {p : Prog α}
    (hf : ∀ s, SameHostSide s (f s)) (hp : p.Keeps P) : (Prog.act f p).Keeps P :=
  ⟨fun s => h s (f s) (hf s).params (hf s).host (hf s).portOut, hp⟩

/-- The two lines that end a command. -/
theorem OfHostSide.ending (h : OfHostSide P) (b : State → Bool) :
    (Prog.act (fun s => s.setFail (b s)) (.act State.finish (.ret ()))).Keeps P :=
  h.act (fun _ => ⟨rfl, rfl, rfl⟩) <| h.act (fun _ => ⟨rfl, rfl, rfl⟩) <| .ret ()

theorem progXfer_keeps (h : OfHostSide P) (sa : SlaveAddr) (dir : Dir) (data : Byte) (start stop ack : Bool) :
    (progXfer sa dir data start stop ack).Keeps P :=
  h.act (fun _ => ⟨rfl, rfl, rfl⟩) <| h.act (fun _ => ⟨rfl, rfl, rfl⟩) <|
    (xfer_keeps h.unwritten _ _ _ _ _ _).bind fun r => h.ending fun _ => r = .fail

theorem progDriver_keeps (h : OfHostSide P) (op : Top) {p : Prog Verdict} (hp : p.Keeps P) :
    (progDriver op p).Keeps P :=
  h.act (fun _ => ⟨rfl, rfl, rfl⟩) <| hp.bind fun r => h.ending fun _ => r = .fail

theorem progRdax_keeps (h : OfHostSide P) (d : BitVec 3) (reg : Byte) : (progRdax d reg).Keeps P := by
  unfold progRdax
  split
  · exact progDriver_keeps h _ (rdAx_keeps h.unwritten _ _)
  · exact h.act (fun _ => ⟨rfl, rfl, rfl⟩) <| .ret ()

theorem runInitFailed_keeps (h : OfHostSide P) : runInitFailed.Keeps P := by
  refine h.act (fun _ => ⟨rfl, rfl, rfl⟩) <| h.act (fun _ => ⟨rfl, rfl, rfl⟩) fun s => ?_
  dsimp only
  split
  · exact h.act (fun _ => ⟨rfl, rfl, rfl⟩) <| .ret ()
  · exact .ret ()

theorem progRun_keeps (h : OfHostSide P) : progRun.Keeps P := by
  refine h.act (fun _ => ⟨rfl, rfl, rfl⟩) <| (init_keeps h.unwritten).bind fun r => ?_
  cases r with
  | ok => exact h.act (fun _ => ⟨rfl, rfl, rfl⟩) <| .ret ()
  | fail => exact runInitFailed_keeps h

/-- No line of a command writes the host's side. -/
theorem program_keeps (h : OfHostSide P) (i : Instr) : (program i).Keeps P := by
  have accepted : ∀ op {p : Prog Unit}, p.Keeps P → (Prog.act (·.accept op) p).Keeps P :=
    fun _ _ hp => h.act (fun _ => ⟨rfl, rfl, rfl⟩) hp
  cases i with
  | wrb => exact progXfer_keeps h _ _ _ _ _ _
  | rdb => exact progXfer_keeps h _ _ _ _ _ _
  | fstop =>
    exact accepted _ <| (forcedStop_keeps h.unwritten).seq <| h.act (fun _ => ⟨rfl, rfl, rfl⟩) <|
      h.ending fun _ => false
  | init => exact progDriver_keeps h _ (init_keeps h.unwritten)
  | rdax d reg => exact progRdax_keeps h d reg
  | clsfy => exact accepted _ <| (classify_keeps h.unwritten).seq <| h.ending fun _ => false
  | cycle => exact accepted _ <| (cycle_keeps h.unwritten).seq <| h.ending fun s => s.status.degraded
  | run => exact progRun_keeps h

/-- Nor does a cycle of RUN's loop. -/
theorem ownWork_keeps (h : OfHostSide P) (s : State) : s.ownWork.Keeps P := by
  unfold State.ownWork
  split
  · exact cycle_keeps h.unwritten
  · exact .ret ()

/-- Whatever CDSEQ executes in a step. -/
theorem work_keeps (h : OfHostSide P) (s : State) (word : Option Word) : (s.work word).Keeps P := by
  cases word with
  | none => exact ownWork_keeps h s
  | some w =>
    unfold State.work
    dsimp only
    split
    · exact .ret ()
    · split
      · exact program_keeps h _
      · exact h.act (fun _ => ⟨rfl, rfl, rfl⟩) <| .ret ()

end

/-- No line of a command, no read or write of the host inside it and no reset there changes a parameter (R241). -/
theorem interrupted_params {q : Params} {p : Prog Unit} (hp : p.Keeps fun s => s.params = q) :
    ∀ (acts : List (Nat × Midway)) (line : Nat) (s : State), s.params = q →
      (interrupted p line acts s).params = q
  | [], _, _, hs => hp.run hs
  | (k, m) :: rest, line, s, hs => by
    unfold interrupted
    cases hpt : p.point (line + k) s with
    | none => exact hp.run hs
    | some now =>
      have hnow : now.params = q := hp.point hs hpt
      cases m with
      | reset => exact hnow
      | read n => exact interrupted_params hp rest _ _ hs
      | write n w => exact interrupted_params hp rest _ _ hs

theorem exec_sameHostSide {i : Instr} {s t : State} (h : exec i s = .next t) : SameHostSide s t := by
  rw [exec_eq_program] at h
  cases h
  exact (program_keeps (ofHostSide_same s) i).run ⟨rfl, rfl, rfl⟩

theorem ownStep_params (s : State) : (ownStep s).params = s.params :=
  (ownWork_keeps (ofHostSide_params s.params) s).run rfl

theorem present_params {w : Word} {s t : State} (h : present w s = .next t) : t.params = s.params := by
  unfold present at h
  split at h
  · cases h; rfl
  · split at h
    · exact (exec_sameHostSide h).params
    · cases h; rfl

/-- No action of the host changes a parameter, nor what CDSEQ then does (R8, R36, R241). -/
theorem hostStep_params {act : HostAction} {s t : State} (h : hostStep act s = .next t) : t.params = s.params := by
  cases act with
  | reset => cases h; rfl
  | read n => cases h; rfl
  | wait => cases h; exact ownStep_params s
  | during word acts =>
    cases h
    exact interrupted_params (work_keeps (ofHostSide_params s.params) s word) acts 1 s rfl
  | write n w =>
    unfold hostStep at h
    dsimp only at h
    split at h
    · exact present_params h
    · cases h
      rw [State.portWrite_frame]

/-- Settles O21: no host action and no line of a program writes a parameter. -/
theorem stepsKeepParameters : Obligations.StepsKeepParameters := by
  intro s t h
  unfold step machineStep at h
  cases hh : s.host with
  | nil =>
    rw [hh] at h
    cases h
    exact ownStep_params s
  | cons act rest =>
    rw [hh] at h
    exact hostStep_params (s := { s with host := rest }) h

end Sys2Proof.Machine
end

section
/-! Which registers each command leaves alone (10_state.md), one frame for each program of `Machine.program`. -/

namespace Sys2Proof.Machine

/-! ### From a procedure's end to its command's -/

/-- A command that calls a procedure and goes on: its end is reached after the procedure's return, or in its hang. -/
theorem Prog.final_bind {α β : Type} {p : Prog α} {q : α → Prog β} {s : State} {R N Q : State → Prop}
    (hp : (p.run s).Post R N) (hq : ∀ a t, R t → Q ((q a).run t).final) (hN : ∀ t, N t → Q t) :
    Q ((p.bind q).run s).final := by
  rw [Prog.run_bind]
  cases hr : p.run s with
  | ret a t => rw [hr] at hp; exact hq a t hp
  | never t => rw [hr] at hp; exact hN t hp

/-- What holds of the state a procedure ends in, returned or waiting, as a postcondition of both. -/
theorem Proc.post_of_final {α : Type} {p : Proc α} {Q : State → Prop} (h : Q p.final) : p.Post Q Q := by
  cases p <;> exact h

/-! ### Commands that neither read an axis nor classify -/

/-- The frame, the prior frame, `CLASS`, `DEG` and `AXI` are as they were: what only reading an axis and classifying
write (R22, R24, R27, R32, R33). -/
structure SamplesKept (s t : State) : Prop where
  f : t.f = s.f
  p : t.p = s.p
  cls : t.cls = s.cls
  deg : t.status.deg = s.status.deg
  axi : t.seq.axi = s.seq.axi

/-- WRB and RDB keep the outcome flags of `Init` and `HALT` besides (R124, R125). -/
theorem progXfer_frame (sa : SlaveAddr) (dir : Dir) (data : Byte) (start stop ack : Bool) (s : State) :
    SamplesKept s ((progXfer sa dir data start stop ack).run s).final ∧
      ((progXfer sa dir data start stop ack).run s).final.status.initok = s.status.initok ∧
      ((progXfer sa dir data start stop ack).run s).final.status.initfail = s.status.initfail ∧
      ((progXfer sa dir data start stop ack).run s).final.status.halt = s.status.halt :=
  Prog.final_bind (s := (s.accept .xfer).setStep .op0)
    (Q := fun t => SamplesKept s t ∧ t.status.initok = s.status.initok ∧ t.status.initfail = s.status.initfail ∧
      t.status.halt = s.status.halt)
    (Proc.post_of_final (xfer_untouched sa dir data start stop ack _))
    (fun _ _ h => ⟨⟨h.f, h.p, h.cls, h.deg, h.axi⟩, h.initok, h.initfail, h.halt⟩)
    (fun _ h => ⟨⟨h.f, h.p, h.cls, h.deg, h.axi⟩, h.initok, h.initfail, h.halt⟩)

/-- All FSTOP does (R123, R126). -/
theorem progFstop_run (s : State) :
    progFstop.run s = .ret () { s with
      status := { s.status with busy := false, held := false, fail := false }
      seq := { s.seq with top := .none, phase := .idle }
      events := s.events ++ [.busStop true] } := rfl

/-- `Init` as INIT and RUN call it: it reads no axis and classifies nothing, and `HALT` is not its own (R141). -/
theorem init_samplesKept (s : State) : (init.run s).Post
    (fun t => SamplesKept s t ∧ t.status.halt = s.status.halt)
    (fun t => SamplesKept s t ∧ t.status.halt = s.status.halt) := by
  have h := init_frame s
  cases hr : init.run s with
  | ret r t =>
    rw [hr] at h
    obtain ⟨hw, -, hf, hdeg, haxi, -⟩ := h
    exact ⟨⟨hf, hw.p, hw.cls, hdeg, haxi⟩, hw.halt⟩
  | never t =>
    rw [hr] at h
    obtain ⟨hw, -, hf, hdeg, haxi, -⟩ := h
    exact ⟨⟨hf, hw.p, hw.cls, hdeg, haxi⟩, hw.halt⟩

theorem progInit_frame (s : State) :
    SamplesKept s (progInit.run s).final ∧ (progInit.run s).final.status.halt = s.status.halt :=
  Prog.final_bind (s := s.accept .init) (Q := fun t => SamplesKept s t ∧ t.status.halt = s.status.halt)
    (init_samplesKept _)
    (fun _ _ ⟨h, hh⟩ => ⟨⟨h.f, h.p, h.cls, h.deg, h.axi⟩, hh⟩)
    (fun _ ⟨h, hh⟩ => ⟨⟨h.f, h.p, h.cls, h.deg, h.axi⟩, hh⟩)

/-- What follows a failed `Init` in RUN writes `FAIL`, `HALT` and the history only (R168). -/
theorem runInitFailed_samplesKept (s : State) : SamplesKept s (runInitFailed.run s).final := by
  unfold runInitFailed
  simp only [Prog.run_act, Prog.run_look]
  split <;> exact ⟨rfl, rfl, rfl, rfl, rfl⟩

/-- RUN up to the entry of its loop (R167, R168). -/
theorem progRun_frame (s : State) : SamplesKept s (progRun.run s).final := by
  refine Prog.final_bind (s := s.accept .run) (init_samplesKept _) (fun r t ⟨h, _⟩ => ?_)
    (fun t ⟨h, _⟩ => ⟨h.f, h.p, h.cls, h.deg, h.axi⟩)
  cases r with
  | ok => exact ⟨h.f, h.p, h.cls, h.deg, h.axi⟩
  | fail =>
    have k := runInitFailed_samplesKept t
    exact ⟨k.f.trans h.f, k.p.trans h.p, k.cls.trans h.cls, k.deg.trans h.deg, k.axi.trans h.axi⟩

/-! ### RDAX, CLSFY and CYCLE -/

/-- What RDAX leaves alone, given the number its field `D` holds (R22, R142, R144): the axes of another number, the
prior frame and `CLASS`, the outcome flags of `Init`, `AXI` and `HALT`. -/
structure OtherAxesKept (d : BitVec 3) (s t : State) : Prop where
  axes : ∀ a : Axis, a.number ≠ d → t.f.get a = s.f.get a ∧ t.status.deg.get a = s.status.deg.get a
  p : t.p = s.p
  cls : t.cls = s.cls
  initok : t.status.initok = s.status.initok
  initfail : t.status.initfail = s.status.initfail
  axi : t.seq.axi = s.seq.axi
  halt : t.status.halt = s.status.halt

theorem rdAx_otherAxesKept (i : Axis) (reg : Byte) (s : State) :
    ((rdAx i reg).run s).Post (OtherAxesKept i.number s) (OtherAxesKept i.number s) := by
  have h := rdAx_frame i reg s
  cases hr : (rdAx i reg).run s with
  | ret v t =>
    rw [hr] at h
    obtain ⟨hw, -, haxi, hok, hfail, hother⟩ := h
    exact ⟨fun a ha => hother a fun e => ha (congrArg Axis.number e), hw.p, hw.cls, hok, hfail, haxi, hw.halt⟩
  | never t =>
    rw [hr] at h
    obtain ⟨hw, -, haxi, hok, hfail, hf, hdeg⟩ := h
    exact ⟨fun a _ => ⟨by rw [hf], by rw [hdeg]⟩, hw.p, hw.cls, hok, hfail, haxi, hw.halt⟩

theorem progRdax_frame (d : BitVec 3) (reg : Byte) (s : State) : OtherAxesKept d s ((progRdax d reg).run s).final := by
  unfold progRdax
  cases hd : Axis.ofNumber d with
  | none => exact ⟨fun _ _ => ⟨rfl, rfl⟩, rfl, rfl, rfl, rfl, rfl, rfl⟩
  | some i =>
    obtain rfl := Axis.ofNumber_some hd
    exact Prog.final_bind (s := s.accept .rdax) (rdAx_otherAxesKept i reg _)
      (fun _ _ h => ⟨h.axes, h.p, h.cls, h.initok, h.initfail, h.axi, h.halt⟩)
      (fun _ h => ⟨h.axes, h.p, h.cls, h.initok, h.initfail, h.axi, h.halt⟩)

/-- All CLSFY does (R180, R181). -/
theorem progClsfy_run (s : State) :
    progClsfy.run s = .ret () { s with
      p := s.f.accel
      cls := { orient := orientResult s.params s.f.accel
               impact := impactFlags s.params s.f.accel s.p
               lamp := (orientResult s.params s.f.accel).lamp }
      status := { s.status with busy := false, fail := false }
      seq := { s.seq with top := .none }
      events := s.events ++
        classifyEvents s.params (impactFlags s.params s.f.accel s.p) (orientResult s.params s.f.accel) } := by
  rw [progClsfy, Prog.run_act, Prog.run_seq, classify_run]
  rfl

/-- The outcome flags of `Init` and `HALT` are as they were (R27). -/
structure OutcomesKept (s t : State) : Prop where
  initok : t.status.initok = s.status.initok
  initfail : t.status.initfail = s.status.initfail
  halt : t.status.halt = s.status.halt

/-- `Cycle()` writes neither: its reads keep them, and the stages after the reads write no flag (R161). -/
theorem cycle_outcomesKept (s : State) : (cycle.run s).Post (OutcomesKept s) (OutcomesKept s) := by
  have h := cycle_post (readAxes_frame Axis.all s (.inl (List.cons_ne_nil _ _)))
  cases hr : cycle.run s with
  | ret v t =>
    rw [hr] at h
    obtain ⟨u, ⟨hw, -, hok, hfail⟩, hu⟩ := h
    rw [afterReads_run] at hu
    cases hu
    exact ⟨hok, hfail, hw.halt⟩
  | never t =>
    rw [hr] at h
    obtain ⟨hw, -, hok, hfail⟩ := h
    exact ⟨hok, hfail, hw.halt⟩

theorem progCycle_frame (s : State) : OutcomesKept s (progCycle.run s).final :=
  Prog.final_bind (s := s.accept .cycle) (cycle_outcomesKept _)
    (fun _ _ h => ⟨h.initok, h.initfail, h.halt⟩) (fun _ h => ⟨h.initok, h.initfail, h.halt⟩)

/-! ### All commands -/

/-- Settles O54: the frame of each command, and for all of them that none writes the host's side. -/
theorem commandsWriteOnlyTheirRegisters : Obligations.CommandsWriteOnlyTheirRegisters := by
  intro i s t h
  obtain ⟨hparams, hhost, hport⟩ := exec_sameHostSide h
  rw [exec_eq_program] at h
  cases h
  cases i with
  | wrb sa data start stop =>
    obtain ⟨⟨hf, hp, hcls, hdeg, haxi⟩, hok, hfail, hhalt⟩ := progXfer_frame sa .write data start stop false s
    exact ⟨fun _ _ => ⟨hp, hcls⟩, fun _ _ => ⟨hf, hdeg⟩, nofun, fun h => h.elim nofun nofun,
      fun _ _ => ⟨hok, hfail⟩, fun _ => haxi, fun _ => hhalt, hparams, hhost, hport⟩
  | rdb sa start ack stop =>
    obtain ⟨⟨hf, hp, hcls, hdeg, haxi⟩, hok, hfail, hhalt⟩ := progXfer_frame sa .read 0 start stop ack s
    exact ⟨fun _ _ => ⟨hp, hcls⟩, fun _ _ => ⟨hf, hdeg⟩, nofun, fun h => h.elim nofun nofun,
      fun _ _ => ⟨hok, hfail⟩, fun _ => haxi, fun _ => hhalt, hparams, hhost, hport⟩
  | fstop =>
    simp [program, progFstop_run, Proc.final]
  | init =>
    obtain ⟨⟨hf, hp, hcls, hdeg, haxi⟩, hhalt⟩ := progInit_frame s
    exact ⟨fun _ _ => ⟨hp, hcls⟩, fun _ _ => ⟨hf, hdeg⟩, nofun, fun h => h.elim nofun nofun,
      fun h => absurd rfl h, fun _ => haxi, fun _ => hhalt, hparams, hhost, hport⟩
  | rdax d reg =>
    obtain ⟨haxes, hp, hcls, hok, hfail, haxi, hhalt⟩ := progRdax_frame d reg s
    exact ⟨fun _ _ => ⟨hp, hcls⟩, fun _ h => absurd rfl (h d reg), fun _ _ h => by cases h; exact haxes,
      fun h => h.elim nofun nofun, fun _ _ => ⟨hok, hfail⟩, fun _ => haxi, fun _ => hhalt, hparams, hhost, hport⟩
  | clsfy =>
    simp [program, progClsfy_run, Proc.final]
  | cycle =>
    obtain ⟨hok, hfail, hhalt⟩ := progCycle_frame s
    exact ⟨fun _ h => absurd rfl h, fun h => absurd rfl h, nofun, fun h => h.elim nofun nofun,
      fun _ _ => ⟨hok, hfail⟩, fun h => absurd rfl h, fun _ => hhalt, hparams, hhost, hport⟩
  | run =>
    obtain ⟨hf, hp, hcls, hdeg, haxi⟩ := progRun_frame s
    exact ⟨fun _ _ => ⟨hp, hcls⟩, fun _ _ => ⟨hf, hdeg⟩, nofun, fun h => h.elim nofun nofun,
      fun _ h => absurd rfl h, fun _ => haxi, fun h => absurd rfl h, hparams, hhost, hport⟩

end Sys2Proof.Machine
end

section
/-! What a step can do, said once (R34, R36 to R39, R240): apply reset, move the host's side, refuse a word, run a
command or run one cycle of RUN's loop. Claims about every step are then claims about these five. -/

namespace Sys2Proof.Machine

/-- The state with other pending actions of the host and other words returned by the port. -/
def State.withHost (s : State) (host : List HostAction) (portOut : List Word) : State :=
  { s with host := host, portOut := portOut }

/-- The five things a step can do; `t` is the state it leads to. -/
inductive StepCase (s : State) : State → Prop
  | reset (b : Bus) (host : List HostAction) (portOut : List Word) (resets : ¬ s.NoReset)
      (sensor : s.SensorWf → ∀ n, b.sensor = some n → n.cells.wf = true) :
      StepCase s (State.resetWith s.params b host portOut)
  | port (f : PerAxis Sample) (p : Triple Sample) (host : List HostAction) (portOut : List Word)
      (busy : s.status.busy = true → f = s.f ∧ p = s.p) :
      StepCase s { s with f := f, p := p, host := host, portOut := portOut }
  | refusal (host : List HostAction) (portOut : List Word) (busy : s.status.busy = false) :
      StepCase s ((s.withHost host portOut).raise .illegalCommand)
  | command (i : Instr) (host : List HostAction) (portOut : List Word) (busy : s.status.busy = false) :
      StepCase s ((program i).run (s.withHost host portOut)).final
  | loop (host : List HostAction) (portOut : List Word) (inLoop : s.inLoop = true) :
      StepCase s (cycle.run (s.withHost host portOut)).final

/-- What CDSEQ executes in a step, by the state and the word presented (R34, R37, R96). -/
theorem work_cases (s : State) (word : Option Word) :
    s.work word = .ret () ∨
    (s.status.busy = false ∧ s.work word = .act (·.raise .illegalCommand) (.ret ())) ∨
    (s.status.busy = false ∧ ∃ i, s.work word = program i) ∨
    (s.inLoop = true ∧ s.work word = cycle) := by
  cases word with
  | none =>
    cases hl : s.inLoop with
    | true => exact .inr (.inr (.inr ⟨rfl, by simp [State.work, State.ownWork, hl]⟩))
    | false => exact .inl (by simp [State.work, State.ownWork, hl])
  | some w =>
    cases hb : s.status.busy with
    | true => exact .inl (by simp [State.work, hb])
    | false =>
      cases hd : decode w with
      | ok i => exact .inr (.inr (.inl ⟨rfl, i, by simp [State.work, hb, hd]⟩))
      | error e => exact .inr (.inl ⟨rfl, by simp [State.work, hb, hd]⟩)

/-- The work of a step, done to its end. -/
theorem work_final (s : State) (word : Option Word) (host : List HostAction) (portOut : List Word) :
    StepCase s ((s.work word).run (s.withHost host portOut)).final := by
  rcases work_cases s word with h | ⟨hb, h⟩ | ⟨hb, i, h⟩ | ⟨hl, h⟩ <;> rw [h]
  · exact .port s.f s.p host portOut fun _ => ⟨rfl, rfl⟩
  · exact .refusal host portOut hb
  · exact .command i host portOut hb
  · exact .loop host portOut hl

/-- At a point inside the work of a step the parameters, the host's side and the sensor's canonical form are those
before it (R8, R36). -/
theorem work_point {s t : State} {word : Option Word} {host : List HostAction} {portOut : List Word} {k : Nat}
    (hs : s.SensorWf) (h : (s.work word).point (k + 1) (s.withHost host portOut) = some t) :
    Environment s.params host portOut t := by
  have keep := Unwritten.environment s.params host portOut
  rcases work_cases s word with hw | ⟨-, hw⟩ | ⟨-, i, hw⟩ | ⟨-, hw⟩ <;> rw [hw] at h
  · cases h
  · cases h
  · exact program_point (s := s.withHost host portOut) keep (fun _ => ⟨rfl, rfl, rfl, hs⟩) h
  · exact (cycle_keeps keep).point (s := s.withHost host portOut) ⟨rfl, rfl, rfl, hs⟩ h

/-- The work of a step with the host acting inside it: done to its end, or abandoned by a reset (R38, R39, R240). -/
theorem interrupted_cases (s : State) (word : Option Word) (host : List HostAction) :
    ∀ (acts : List (Nat × Midway)) (line : Nat) (portOut : List Word),
      ((acts.any fun a => a.2 == .reset) = true → ¬ s.NoReset) →
      StepCase s (interrupted (s.work word) (line + 1) acts (s.withHost host portOut))
  | [], _, portOut, _ => work_final s word host portOut
  | (k, m) :: rest, line, portOut, hr => by
    have hrest : (rest.any fun a => a.2 == .reset) = true → ¬ s.NoReset := fun h => hr (by simp [h])
    unfold interrupted
    rw [Nat.add_right_comm line 1 k]
    cases hp : (s.work word).point (line + k + 1) (s.withHost host portOut) with
    | none => exact work_final s word host portOut
    | some now =>
      cases m with
      | reset =>
        have same := (work_keeps (ofHostSide_same (s.withHost host portOut)) s word).point ⟨rfl, rfl, rfl⟩ hp
        have hnow : now.applyReset = State.resetWith s.params now.bus now.host now.portOut := by
          rw [← show now.params = s.params from same.params]; rfl
        show StepCase s now.applyReset
        rw [hnow]
        exact .reset now.bus now.host now.portOut (hr rfl) fun hs => (work_point hs hp).sensor
      | read n => exact interrupted_cases s word host rest (line + k) _ hrest
      | write n w => exact interrupted_cases s word host rest (line + k) portOut hrest

/-- A command word presented (R37): the step's work for that word. -/
theorem present_eq_work (w : Word) (s : State) : present w s = .next ((s.work (some w)).run s).final := by
  cases hb : s.status.busy with
  | true => simp [present, State.work, hb, Proc.final]
  | false =>
    cases hd : decode w with
    | ok i => simp [present, State.work, hb, hd, exec_eq_program]
    | error e => simp [present, State.work, hb, hd, Proc.final]

/-- One action of the host, taken off its list. -/
theorem hostStep_cases {s t : State} {act : HostAction} {rest : List HostAction} (hact : s.host = act :: rest)
    (h : hostStep act (s.withHost rest s.portOut) = .next t) : StepCase s t := by
  have resets : act.resets = true → ¬ s.NoReset := fun hr hn => by
    have := hn act (by simp [hact])
    simp [hr] at this
  cases act with
  | reset => cases h; exact .reset s.bus rest s.portOut (resets rfl) id
  | read n => cases h; exact .port s.f s.p rest _ fun _ => ⟨rfl, rfl⟩
  | wait => cases h; exact work_final s none rest s.portOut
  | during word acts => cases h; exact interrupted_cases s word rest acts 0 s.portOut resets
  | write n w =>
    unfold hostStep at h
    dsimp only at h
    split at h
    · rw [present_eq_work] at h
      cases h
      exact work_final s (some w) rest s.portOut
    · cases h
      rw [State.portWrite_frame]
      refine .port _ _ rest s.portOut fun hb => ?_
      rw [State.portWrite_busy (s := s.withHost rest s.portOut) hb]
      exact ⟨rfl, rfl⟩

/-- All a step can do. -/
theorem step_cases {s t : State} (h : step s = .next t) : StepCase s t := by
  unfold step machineStep at h
  cases hh : s.host with
  | nil =>
    rw [hh] at h
    cases h
    exact work_final s none s.host s.portOut
  | cons act rest =>
    rw [hh] at h
    exact hostStep_cases hh h

end Sys2Proof.Machine
end

section
/-! Where commands end (R34): what every procedure leaves of the things the invariant speaks of, whether it returns or
waits for ever, and from that what every command and every cycle of RUN's loop leaves. -/

namespace Sys2Proof.Machine

/-! ### What procedures leave -/

/-- Nothing outstanding and the engine idle: where a procedure stands when it returns. -/
structure State.Settled (s : State) : Prop where
  xbusy : s.status.xbusy = false
  phase : s.seq.phase = .idle

/-- `ERR` is the disjunction of its causes (R29), and an error leaves no transaction open (R123). -/
structure State.ErrorsAgree (s : State) : Prop where
  err : s.status.err = (s.status.nack || s.status.arblst)
  held : s.status.err = true → s.status.held = false

/-- The bits only reset clears (R232) are set in `t` when they are in `s`. -/
structure StickyKept (s t : State) : Prop where
  ill : s.status.ill = true → t.status.ill = true
  seqf : s.status.seqf = true → t.status.seqf = true
  initfail : s.status.initfail = true → t.status.initfail = true
  halt : s.status.halt = true → t.status.halt = true

/-- What no procedure changes, whatever the bus answers, and what each keeps. -/
structure Accords (s t : State) : Prop where
  params : t.params = s.params
  busy : t.status.busy = s.status.busy
  halt : t.status.halt = s.status.halt
  top : t.seq.top = s.seq.top
  sticky : StickyKept s t
  classes : s.ClassesAgree → t.ClassesAgree
  sensor : s.SensorWf → t.SensorWf

/-- A procedure that returned. -/
structure Returned (s t : State) : Prop where
  accords : Accords s t
  settled : s.Settled → t.Settled
  errors : s.ErrorsAgree → t.ErrorsAgree

/-- A procedure that never returns. -/
structure Waits (s t : State) : Prop where
  accords : Accords s t
  wait : AtWait t

/-- A procedure ends, from every state, in one of these two ways. -/
def Prog.Orderly {α : Type} (p : Prog α) : Prop := ∀ s, (p.run s).Post (Returned s) (Waits s)

theorem State.ClassesAgree.of_eq {s t : State} (hc : t.cls = s.cls) (hp : t.params = s.params) (h : s.ClassesAgree) :
    t.ClassesAgree := by
  unfold State.ClassesAgree
  rw [hc, hp]
  exact h

/-- Bus work that keeps `INITFAIL` is in accord. -/
theorem BusWork.accords {s t : State} (h : BusWork s t)
    (hi : s.status.initfail = true → t.status.initfail = true) : Accords s t where
  params := h.params
  busy := h.busy
  halt := h.halt
  top := h.top
  sticky := ⟨fun k => h.ill.trans k, fun k => h.seqf.trans k, hi, fun k => h.halt.trans k⟩
  classes := .of_eq h.cls h.params
  sensor := h.sensor

theorem AtRest.errorsAgree {t : State} (h : AtRest t) : t.ErrorsAgree := ⟨h.err, fun _ => h.held⟩

theorem AtWait.errorsAgree {t : State} (h : AtWait t) : t.ErrorsAgree :=
  ⟨by rw [h.err, h.nack, h.arblst]; rfl, fun he => by rw [h.err] at he; cases he⟩

/-- A driver sequence that returned, whatever it found. -/
theorem AtRest.returned {s t : State} (h : AtRest t) (ha : Accords s t) : Returned s t :=
  ⟨ha, fun _ => ⟨h.xbusy, h.phase⟩, fun _ => h.errorsAgree⟩

theorem xfer_orderly (sa : SlaveAddr) (dir : Dir) (data : Byte) (start stop ack : Bool) :
    (xfer sa dir data start stop ack).Orderly := by
  intro s
  rcases xfer_cases sa dir data start stop ack s with
    ⟨-, h⟩ | ⟨-, b, ha, h⟩ | ⟨-, n, a, r, b, he, ha, h⟩ | ⟨-, r, b, ha, h⟩ <;> rw [h]
  · exact ⟨⟨rfl, rfl, rfl, rfl, ⟨id, fun _ => rfl, id, id⟩, id, id⟩, fun hs => ⟨hs.xbusy, hs.phase⟩,
      fun hs => ⟨hs.err, hs.held⟩⟩
  · exact ⟨(busWork_atWait ha).accords id, ⟨rfl, rfl, rfl, rfl, rfl⟩⟩
  · exact AtRest.returned ⟨rfl, rfl, rfl, he.symm⟩ ((busWork_afterError ha).accords id)
  · exact ⟨(busWork_afterOk ha).accords id, fun _ => ⟨rfl, rfl⟩, fun _ => ⟨rfl, nofun⟩⟩

theorem init_orderly : init.Orderly := by
  intro s
  have h := init_frame s
  cases hr : init.run s with
  | ret r t =>
    rw [hr] at h
    obtain ⟨hw, hrest, -, -, -, hi⟩ := h
    exact hrest.returned (hw.accords hi)
  | never t =>
    rw [hr] at h
    obtain ⟨hw, hwait, -, -, -, hi⟩ := h
    exact ⟨hw.accords fun k => hi.trans k, hwait⟩

theorem rdAx_orderly (d : Axis) (reg : Byte) : (rdAx d reg).Orderly := by
  intro s
  have h := rdAx_frame d reg s
  cases hr : (rdAx d reg).run s with
  | ret r t =>
    rw [hr] at h
    obtain ⟨hw, hrest, -, -, hi, -⟩ := h
    exact hrest.returned (hw.accords fun k => hi.trans k)
  | never t =>
    rw [hr] at h
    obtain ⟨hw, hwait, -, -, hi, -⟩ := h
    exact ⟨hw.accords fun k => hi.trans k, hwait⟩

/-- A classification leaves classes that agree, whatever stood there (R186, R191, R197). -/
theorem classesAgree_of_classified {t : State} {a prior : Triple Sample}
    (h : t.cls = { orient := orientResult t.params a
                   impact := impactFlags t.params a prior
                   lamp := (orientResult t.params a).lamp }) : t.ClassesAgree := by
  unfold State.ClassesAgree
  rw [h]
  exact ⟨rfl, fun ho => by simp [orientResult, ho], fun hp => impactFlags_none hp a prior⟩

theorem classify_orderly : classify.Orderly := by
  intro s
  rw [classify_run]
  exact ⟨⟨rfl, rfl, rfl, rfl, ⟨id, id, id, id⟩, fun _ => classesAgree_of_classified rfl, id⟩,
    fun hs => ⟨hs.xbusy, hs.phase⟩, fun hs => ⟨hs.err, hs.held⟩⟩

theorem cycle_orderly : cycle.Orderly := by
  intro s
  have h := cycle_post (readAxes_frame Axis.all s (.inl (List.cons_ne_nil _ _)))
  cases hr : cycle.run s with
  | ret v t =>
    rw [hr] at h
    obtain ⟨u, ⟨hw, hrest, -, hi⟩, hu⟩ := h
    rw [afterReads_run] at hu
    cases hu
    obtain ⟨hp, hb, hh, ht, hst, -, hsen⟩ := hw.accords fun k => hi.trans k
    obtain ⟨hx, hheld, hph, herr⟩ := hrest
    exact AtRest.returned ⟨hx, hheld, hph, herr⟩
      ⟨hp, hb, hh, ht, ⟨hst.ill, hst.seqf, hst.initfail, hst.halt⟩, fun _ => classesAgree_of_classified rfl, hsen⟩
  | never t =>
    rw [hr] at h
    obtain ⟨hw, hwait, -, hi⟩ := h
    exact ⟨hw.accords fun k => hi.trans k, hwait⟩

/-! ### Where commands end -/

/-- The commands that use the bus, the only ones that can hang (R34, R122). -/
def Top.UsesBus (op : Top) : Prop := op = .xfer ∨ op = .init ∨ op = .rdax ∨ op = .cycle ∨ op = .run

/-- What a command leaves, given what stood before it: a point of rest, flags and classes that agree, the sensor's
canonical form, the sticky bits. -/
structure CommandEnd (s t : State) : Prop where
  rest : s.Idle → t.Quiescent ∨ t.Looping
  flags : s.Idle → s.FlagsAgree → t.FlagsAgree
  classes : s.ClassesAgree → t.ClassesAgree
  sensor : s.SensorWf → t.SensorWf
  sticky : StickyKept s t

theorem State.FlagsAgree.errorsAgree {s : State} (h : s.FlagsAgree) : s.ErrorsAgree := ⟨h.1, h.2.1⟩

/-- Errors that agree are flags that agree while `HALT` = 0. -/
theorem State.ErrorsAgree.flagsAgree {t : State} (h : t.ErrorsAgree) (hh : t.status.halt = false) : t.FlagsAgree :=
  ⟨h.err, h.held, fun k => by rw [hh] at k; cases k⟩

theorem State.Idle.settled {s : State} (h : s.Idle) : s.Settled := by
  obtain ⟨-, hx, -, -, hp⟩ := h
  exact ⟨hx, hp⟩

theorem State.Idle.halt {s : State} (h : s.Idle) : s.status.halt = false := by
  obtain ⟨-, -, hh, -⟩ := h
  exact hh

/-- A command whose procedure never returns ends hung (R122). -/
theorem Waits.commandEnd {s t : State} {op : Top} (h : Waits (s.accept op) t) (hop : op.UsesBus) : CommandEnd s t := by
  obtain ⟨⟨-, hb, hh, ht, ⟨hill, hseqf, hfail, hhalt⟩, hc, hs⟩, hw⟩ := h
  refine ⟨fun hi => .inl (.inr (.inl ⟨hb, hw.xbusy, hh.trans hi.halt, hw.phase, ?_⟩)),
    fun hi _ => hw.errorsAgree.flagsAgree (hh.trans hi.halt), hc, hs, ⟨hill, hseqf, hfail, hhalt⟩⟩
  rw [show t.seq.top = op from ht]
  exact hop

/-- A command whose procedure returns stores its outcome and ends idle (R35). -/
theorem Returned.commandEnd {s t : State} {op : Top} (h : Returned (s.accept op) t) (failed : Bool) :
    CommandEnd s (t.setFail failed).finish := by
  obtain ⟨⟨-, -, hh, -, hst, hc, hs⟩, hset, herr⟩ := h
  refine ⟨fun hi => ?_, fun hi hf => ?_, hc, hs, ⟨hst.ill, hst.seqf, hst.initfail, hst.halt⟩⟩
  · obtain ⟨hx, hp⟩ := hset ⟨hi.settled.xbusy, hi.settled.phase⟩
    exact .inl (.inl ⟨rfl, hx, hh.trans hi.halt, rfl, hp⟩)
  · obtain ⟨he, hheld⟩ := herr ⟨hf.errorsAgree.err, hf.errorsAgree.held⟩
    exact State.ErrorsAgree.flagsAgree ⟨he, hheld⟩ (hh.trans hi.halt)

/-- The commands that call one procedure, store its outcome in `FAIL` and complete (R35). -/
theorem commandEnd_of_orderly {α : Type} {p : Prog α} {s : State} {op : Top} {failed : α → State → Bool}
    (hp : p.Orderly) (hop : op.UsesBus) :
    CommandEnd s ((Prog.act (·.accept op) <| p.bind fun r =>
      .act (fun t => t.setFail (failed r t)) <| .act (·.finish) <| .ret ()).run s).final :=
  Prog.final_bind (hp (s.accept op)) (fun r t h => h.commandEnd (failed r t)) fun _ h => h.commandEnd hop

/-- Setting `STEP` before a procedure is nothing of the above. -/
theorem Prog.Orderly.setStep {α : Type} {p : Prog α} (hp : p.Orderly) (k : OpIndex) :
    (Prog.act (·.setStep k) p).Orderly := fun s => by
  have h := hp (s.setStep k)
  rw [Prog.run_act]
  cases hr : p.run (s.setStep k) with
  | ret a t =>
    rw [hr] at h
    obtain ⟨⟨hpar, hb, hh, ht, hst, hc, hs⟩, hset, herr⟩ := h
    exact ⟨⟨hpar, hb, hh, ht, ⟨hst.ill, hst.seqf, hst.initfail, hst.halt⟩, hc, hs⟩,
      fun k => hset ⟨k.xbusy, k.phase⟩, fun k => herr ⟨k.err, k.held⟩⟩
  | never t =>
    rw [hr] at h
    obtain ⟨⟨hpar, hb, hh, ht, hst, hc, hs⟩, hw⟩ := h
    exact ⟨⟨hpar, hb, hh, ht, ⟨hst.ill, hst.seqf, hst.initfail, hst.halt⟩, hc, hs⟩, hw⟩

theorem progXfer_commandEnd (sa : SlaveAddr) (dir : Dir) (data : Byte) (start stop ack : Bool) (s : State) :
    CommandEnd s ((progXfer sa dir data start stop ack).run s).final :=
  commandEnd_of_orderly (op := .xfer) (failed := fun r _ => r = .fail)
    ((xfer_orderly sa dir data start stop ack).setStep .op0) (.inl rfl)

/-- `raise` in an idle machine leaves it idle (R214, R215). -/
theorem raise_commandEnd (s : State) (x : RaisedFault) : CommandEnd s (s.raise x) := by
  cases x with
  | illegalCommand =>
    exact ⟨fun hi => .inl (.inl hi), fun hi hf => State.ErrorsAgree.flagsAgree ⟨hf.1, hf.2.1⟩ hi.halt, id, id,
      ⟨fun _ => rfl, id, id, id⟩⟩
  | sequenceError =>
    exact ⟨fun hi => .inl (.inl hi), fun hi hf => State.ErrorsAgree.flagsAgree ⟨hf.1, hf.2.1⟩ hi.halt, id, id,
      ⟨id, fun _ => rfl, id, id⟩⟩

/-- The driver commands that are one sequence (R140, R142). -/
theorem progDriver_commandEnd {op : Top} {p : Prog Verdict} (hp : p.Orderly) (hop : op.UsesBus) (s : State) :
    CommandEnd s ((progDriver op p).run s).final :=
  commandEnd_of_orderly (failed := fun r _ => r = .fail) hp hop

theorem progClsfy_commandEnd (s : State) : CommandEnd s (progClsfy.run s).final := by
  have h := classify_orderly (s.accept .clsfy)
  rw [classify_run] at h
  rw [progClsfy_run]
  exact Returned.commandEnd h false

theorem progCycle_commandEnd (s : State) : CommandEnd s (progCycle.run s).final := by
  unfold progCycle
  exact commandEnd_of_orderly (failed := fun _ t => t.status.degraded) cycle_orderly (.inr (.inr (.inr (.inl rfl))))

theorem progRdax_commandEnd (d : BitVec 3) (reg : Byte) (s : State) :
    CommandEnd s ((progRdax d reg).run s).final := by
  unfold progRdax
  split
  · exact progDriver_commandEnd (rdAx_orderly _ reg) (.inr (.inr (.inl rfl))) s
  · exact raise_commandEnd s .illegalCommand

theorem progFstop_commandEnd (s : State) : CommandEnd s (progFstop.run s).final := by
  rw [progFstop_run]
  exact ⟨fun hi => .inl (.inl ⟨rfl, hi.settled.xbusy, hi.halt, rfl, rfl⟩),
    fun hi hf => State.ErrorsAgree.flagsAgree ⟨hf.1, fun _ => rfl⟩ hi.halt, id, id, ⟨id, id, id, id⟩⟩

/-- A failed `Init` has recorded it (R141). -/
theorem init_fail_initfail {s t : State} (h : init.run s = .ret .fail t) : t.status.initfail = true := by
  rcases init_cases s with ⟨b, -, hx⟩ | ⟨n, a, r, b, -, -, hx⟩ | ⟨c, b, -, ⟨b', -, hx⟩ |
    ⟨n, a, r, b', -, -, hx⟩ | ⟨r, b', -, hx⟩⟩ <;> rw [hx] at h <;> cases h <;> rfl

/-- All RUN does once `Init` has failed (R168). -/
theorem runInitFailed_run (t : State) :
    runInitFailed.run t = .ret () { t with
      status := { t.status with fail := true, halt := t.status.halt || t.params.initFatal }
      events := t.events ++ [.log .initFailed] } := by
  obtain ⟨-, -, -, -, status, -, -, -, params, -, -, -⟩ := t
  cases h : params.initFatal <;> simp [runInitFailed, State.setFail, State.emit, State.flags, h]

theorem progRun_commandEnd (s : State) : CommandEnd s (progRun.run s).final := by
  have h := init_orderly (s.accept .run)
  unfold progRun
  rw [Prog.run_act, Prog.run_bind]
  cases hr : init.run (s.accept .run) with
  | never t =>
    rw [hr] at h
    exact h.commandEnd (.inr (.inr (.inr (.inr rfl))))
  | ret r t =>
    rw [hr] at h
    obtain ⟨⟨-, hb, hh, ht, hst, hc, hs⟩, hset, herr⟩ := h
    have settled : s.Idle → t.Settled := fun hi => hset ⟨hi.settled.xbusy, hi.settled.phase⟩
    have errors : s.FlagsAgree → t.ErrorsAgree := fun hf => herr ⟨hf.errorsAgree.err, hf.errorsAgree.held⟩
    rw [Proc.andThen_ret]
    cases r with
    | ok =>
      exact ⟨fun hi => .inr ⟨hb, (settled hi).xbusy, hh.trans hi.halt, ht, (settled hi).phase⟩,
        fun hi hf => State.ErrorsAgree.flagsAgree ⟨(errors hf).err, (errors hf).held⟩ (hh.trans hi.halt), hc, hs,
        ⟨hst.ill, hst.seqf, hst.initfail, hst.halt⟩⟩
    | fail =>
      dsimp only
      rw [runInitFailed_run]
      have halt : s.Idle → t.status.halt = false := fun hi => hh.trans hi.halt
      refine ⟨fun hi => ?_, fun hi hf => ⟨(errors hf).err, (errors hf).held, fun hhalt => ?_⟩, hc, hs,
        ⟨hst.ill, hst.seqf, hst.initfail, fun k => by simp [Proc.final, hst.halt k]⟩⟩
      · cases hfatal : t.params.initFatal with
        | true =>
          exact .inl (.inr (.inr ⟨hb, (settled hi).xbusy, Bool.or_eq_true_iff.2 (.inr rfl), ht, (settled hi).phase⟩))
        | false =>
          exact .inr ⟨hb, (settled hi).xbusy, Bool.or_eq_false_iff.2 ⟨halt hi, rfl⟩, ht, (settled hi).phase⟩
      · refine ⟨rfl, init_fail_initfail (t := t) hr, ?_⟩
        simpa [Proc.final, halt hi] using hhalt

/-- Where every command ends (R34). -/
theorem program_commandEnd (i : Instr) (s : State) : CommandEnd s ((program i).run s).final := by
  cases i with
  | wrb sa data start stop => exact progXfer_commandEnd sa .write data start stop false s
  | rdb sa start ack stop => exact progXfer_commandEnd sa .read 0 start stop ack s
  | fstop => exact progFstop_commandEnd s
  | init => exact progDriver_commandEnd init_orderly (.inr (.inl rfl)) s
  | rdax d reg => exact progRdax_commandEnd d reg s
  | clsfy => exact progClsfy_commandEnd s
  | cycle => exact progCycle_commandEnd s
  | run => exact progRun_commandEnd s

/-! ### Where a cycle of RUN's loop ends -/

theorem inLoop_iff (s : State) :
    s.inLoop = true ↔
      s.status.busy = true ∧ s.status.xbusy = false ∧ s.status.halt = false ∧ s.seq.top = .run := by
  simp [State.inLoop, and_assoc]

theorem State.Looping.inLoop {s : State} (h : s.Looping) : s.inLoop = true := by
  obtain ⟨hb, hx, hh, ht, -⟩ := h
  exact (inLoop_iff s).2 ⟨hb, hx, hh, ht⟩

/-- A point of rest at which RUN's loop goes on is the point between two of its cycles. -/
theorem looping_of_inLoop {s : State} (hr : s.Quiescent ∨ s.Looping) (h : s.inLoop = true) : s.Looping := by
  obtain ⟨hb, hx, hh, -⟩ := (inLoop_iff s).1 h
  rcases hr with (hi | hu | ha) | hl
  · obtain ⟨k, -⟩ := hi; rw [hb] at k; cases k
  · obtain ⟨-, k, -⟩ := hu; rw [hx] at k; cases k
  · obtain ⟨-, -, k, -⟩ := ha; rw [hh] at k; cases k
  · exact hl

/-- A point of rest at which a command is accepted is the idle point. -/
theorem idle_of_busy_false {s : State} (hr : s.Quiescent ∨ s.Looping) (h : s.status.busy = false) : s.Idle := by
  rcases hr with (hi | hu | ha) | hl
  · exact hi
  · obtain ⟨k, -⟩ := hu; rw [h] at k; cases k
  · obtain ⟨k, -⟩ := ha; rw [h] at k; cases k
  · obtain ⟨k, -⟩ := hl; rw [h] at k; cases k

/-- A cycle of RUN's loop ends in the loop or hangs (R167). -/
theorem cycle_looping {s : State} (hl : s.Looping) :
    (cycle.run s).final.Looping ∨ (cycle.run s).final.Hung ∧ (cycle.run s).final.seq.top = .run := by
  obtain ⟨hb, hx, hh, ht, hp⟩ := hl
  have h := cycle_orderly s
  cases hr : cycle.run s with
  | ret v t =>
    rw [hr] at h
    obtain ⟨ha, hset, -⟩ := h
    obtain ⟨hx', hp'⟩ := hset ⟨hx, hp⟩
    exact .inl ⟨ha.busy.trans hb, hx', ha.halt.trans hh, ha.top.trans ht, hp'⟩
  | never t =>
    rw [hr] at h
    obtain ⟨ha, hw⟩ := h
    have top : t.seq.top = .run := ha.top.trans ht
    exact .inr ⟨⟨ha.busy.trans hb, hw.xbusy, ha.halt.trans hh, hw.phase, .inr (.inr (.inr (.inr top)))⟩, top⟩

theorem cycle_accords (s : State) : Accords s (cycle.run s).final := by
  have h := cycle_orderly s
  cases hr : cycle.run s with
  | ret v t => rw [hr] at h; exact h.accords
  | never t => rw [hr] at h; exact h.accords

theorem cycle_errorsAgree {s : State} (hs : s.ErrorsAgree) : (cycle.run s).final.ErrorsAgree := by
  have h := cycle_orderly s
  cases hr : cycle.run s with
  | ret v t => rw [hr] at h; exact h.errors hs
  | never t => rw [hr] at h; exact h.wait.errorsAgree

end Sys2Proof.Machine
end

section
/-! The invariant and the resting points under every step (R34, R167, R232, R240): each claim is read off the five
things a step can do. -/

namespace Sys2Proof.Machine

/-! ### Reset -/

/-- A reset leaves the idle point (R240). -/
theorem resetWith_idle (params : Params) (bus : Bus) (host : List HostAction) (portOut : List Word) :
    (State.resetWith params bus host portOut).Idle := ⟨rfl, rfl, rfl, rfl, rfl⟩

theorem resetWith_inv (params : Params) {bus : Bus} (host : List HostAction) (portOut : List Word)
    (h : ∀ n, bus.sensor = some n → n.cells.wf = true) : (State.resetWith params bus host portOut).Inv where
  rest := .inl (.inl (resetWith_idle params bus host portOut))
  flags := ⟨rfl, fun _ => rfl, nofun⟩
  classes := ⟨rfl, fun _ => rfl, fun _ => rfl⟩
  sensor := h

/-- The empty history obeys the bus protocol, and every flag that speaks of the bus is 0 (R43). -/
theorem resetWith_busConsistent (params : Params) (bus : Bus) (host : List HostAction) (portOut : List Word) :
    (State.resetWith params bus host portOut).BusConsistent := ⟨BusView.start, rfl, rfl, rfl, rfl⟩

/-- Settles O3: a reset state is idle with an empty history, whatever environment it carries. -/
theorem resetStateMeetsInvariant : Obligations.ResetStateMeetsInvariant :=
  ⟨resetWith_inv _ _ _ nofun, resetWith_busConsistent _ _ _ _, fun params bus host portOut h =>
    ⟨resetWith_inv params host portOut h, resetWith_busConsistent params bus host portOut⟩⟩

/-- The words of the three packed registers are 0 at reset (R27, R32, R33, R43). -/
theorem reset_words_zero :
    State.reset.status.toWord = 0 ∧ State.reset.cls.toWord = 0 ∧ State.reset.seq.toWord = 0 := by decide

/-- Settles O1: a pending reset is applied whatever the state, and every register's word is then computed. -/
theorem resetZeroesEveryRegister : Obligations.ResetZeroesEveryRegister := by
  intro s rest h
  refine ⟨State.resetWith s.params s.bus rest s.portOut, ?_, ?_⟩
  · unfold step machineStep
    rw [h]
    rfl
  · obtain ⟨hstatus, hcls, hseq⟩ := reset_words_zero
    exact ⟨fun i => by cases i <;> rfl, fun i => by cases i <;> rfl, rfl, rfl, hstatus, hcls, hseq, rfl⟩

/-! ### The points of rest -/

/-- Every step from a point of rest leads to one (R34). -/
theorem step_rest {s t : State} (hr : s.Quiescent ∨ s.Looping) (h : step s = .next t) : t.Quiescent ∨ t.Looping := by
  cases step_cases h with
  | reset b host portOut => exact .inl (.inl (resetWith_idle s.params b host portOut))
  | port => exact hr
  | refusal host portOut busy => exact .inl (.inl (idle_of_busy_false hr busy))
  | command i host portOut busy =>
    exact (program_commandEnd i (s.withHost host portOut)).rest (idle_of_busy_false hr busy)
  | loop host portOut inLoop =>
    rcases cycle_looping (s := s.withHost host portOut) (looping_of_inLoop hr inLoop) with k | ⟨k, -⟩
    · exact .inr k
    · exact .inl (.inr (.inl k))

/-- The flags agree after a step. -/
theorem step_flagsAgree {s t : State} (hr : s.Quiescent ∨ s.Looping) (hf : s.FlagsAgree) (h : step s = .next t) :
    t.FlagsAgree := by
  cases step_cases h with
  | reset b host portOut => exact ⟨rfl, fun _ => rfl, nofun⟩
  | port => exact hf
  | refusal host portOut busy =>
    exact (raise_commandEnd (s.withHost host portOut) _).flags (idle_of_busy_false hr busy) hf
  | command i host portOut busy =>
    exact (program_commandEnd i (s.withHost host portOut)).flags (idle_of_busy_false hr busy) hf
  | loop host portOut inLoop =>
    obtain ⟨-, -, hh, -⟩ := (inLoop_iff s).1 inLoop
    exact (cycle_errorsAgree (s := s.withHost host portOut) ⟨hf.errorsAgree.err, hf.errorsAgree.held⟩).flagsAgree
      ((cycle_accords (s.withHost host portOut)).halt.trans hh)

/-- The classes agree after a step. -/
theorem step_classesAgree {s t : State} (hc : s.ClassesAgree) (h : step s = .next t) : t.ClassesAgree := by
  cases step_cases h with
  | reset b host portOut => exact ⟨rfl, fun _ => rfl, fun _ => rfl⟩
  | port => exact hc
  | refusal host portOut => exact hc
  | command i host portOut => exact (program_commandEnd i (s.withHost host portOut)).classes hc
  | loop host portOut => exact (cycle_accords (s.withHost host portOut)).classes hc

/-- The optional sensor's register space is canonical after a step. -/
theorem step_sensorWf {s t : State} (hs : s.SensorWf) (h : step s = .next t) : t.SensorWf := by
  cases step_cases h with
  | reset b host portOut _ sensor => exact sensor hs
  | port => exact hs
  | refusal host portOut => exact hs
  | command i host portOut => exact (program_commandEnd i (s.withHost host portOut)).sensor hs
  | loop host portOut => exact (cycle_accords (s.withHost host portOut)).sensor hs

/-- Settles O4: each of the invariant's four parts is kept by all a step can do. -/
theorem stepKeepsInvariant : Obligations.StepKeepsInvariant := fun _ _ hi h =>
  ⟨step_rest hi.rest h, step_flagsAgree hi.rest hi.flags h, step_classesAgree hi.classes h, step_sensorWf hi.sensor h⟩

/-! ### Steps without a reset -/

/-- Settles O22: only a reset clears a sticky bit. -/
theorem stickyBitsSurviveEveryCommand : Obligations.StickyBitsSurviveEveryCommand := by
  intro s t hn h
  have kept : StickyKept s t := by
    cases step_cases h with
    | reset _ _ _ resets => exact absurd hn resets
    | port => exact ⟨id, id, id, id⟩
    | refusal => exact ⟨fun _ => rfl, id, id, id⟩
    | command i host portOut =>
      obtain ⟨hill, hseqf, hfail, hhalt⟩ := (program_commandEnd i (s.withHost host portOut)).sticky
      exact ⟨hill, hseqf, hfail, hhalt⟩
    | loop host portOut =>
      obtain ⟨hill, hseqf, hfail, hhalt⟩ := (cycle_accords (s.withHost host portOut)).sticky
      exact ⟨hill, hseqf, hfail, hhalt⟩
  exact ⟨kept.ill, kept.seqf, kept.initfail, kept.halt⟩

/-- Settles O20: a hung or halted machine is busy, so nothing is accepted and nothing written, and it is not in RUN's
loop. -/
theorem onlyResetLeavesHungAndHalted : Obligations.OnlyResetLeavesHungAndHalted := by
  intro s t hs hn h
  have hbusy : s.status.busy = true := by
    rcases hs with ⟨k, -⟩ | ⟨k, -⟩ <;> exact k
  cases step_cases h with
  | reset _ _ _ resets => exact absurd hn resets
  | port f p host portOut busy =>
    obtain ⟨rfl, rfl⟩ := busy hbusy
    rfl
  | refusal _ _ busy => rw [hbusy] at busy; cases busy
  | command _ _ _ busy => rw [hbusy] at busy; cases busy
  | loop _ _ inLoop =>
    obtain ⟨-, hx, hh, -⟩ := (inLoop_iff s).1 inLoop
    rcases hs with ⟨-, k, -⟩ | ⟨-, -, k, -⟩
    · rw [hx] at k; cases k
    · rw [hh] at k; cases k

/-- Settles O53: without a reset a machine in RUN's loop accepts nothing, and its cycle ends in the loop or hangs. -/
theorem runNeverReturns : Obligations.RunNeverReturns := by
  intro s t hl hn h
  have hbusy : s.status.busy = true := hl.1
  cases step_cases h with
  | reset _ _ _ resets => exact absurd hn resets
  | port => exact .inl hl
  | refusal _ _ busy => rw [hbusy] at busy; cases busy
  | command _ _ _ busy => rw [hbusy] at busy; cases busy
  | loop host portOut => exact cycle_looping (s := s.withHost host portOut) hl

/-! ### The host doing nothing -/

/-- At a quiescent point CDSEQ has nothing to do by itself (R34). -/
theorem ownWork_of_quiescent {s : State} (h : s.Quiescent) : s.ownWork = .ret () := by
  have hl : s.inLoop = false := by
    unfold State.inLoop
    rcases h with ⟨hb, -⟩ | ⟨-, hx, -⟩ | ⟨-, -, hh, -⟩
    · rw [hb]; rfl
    · rw [hx]; simp
    · rw [hh]; simp
  simp [State.ownWork, hl]

/-- A program with no line left: no act of the host falls inside. -/
theorem interrupted_ret (line : Nat) (acts : List (Nat × Midway)) (s : State) :
    interrupted (.ret ()) line acts s = s := by
  cases acts <;> rfl

/-- Settles O58: there is no work at a quiescent point, so the host's act leaves nothing to do. -/
theorem quiescentMachineTakesNoStep : Obligations.QuiescentMachineTakesNoStep := by
  intro s hq
  have own : ∀ rest, ({ s with host := rest } : State).ownWork = .ret () := fun rest =>
    ownWork_of_quiescent (s := { s with host := rest }) hq
  refine ⟨fun h => ?_, fun rest h => ?_⟩
  · unfold step machineStep ownStep
    rw [h, ownWork_of_quiescent hq]
    rfl
  · unfold step machineStep
    rcases h with h | ⟨acts, h⟩ <;> rw [h]
    · simp [hostStep, ownStep, own, Proc.final]
    · simp [hostStep, State.work, own, interrupted_ret]

end Sys2Proof.Machine
end

section
/-! The event history and the bus protocol (R30, R72, R121, R123): every procedure, started with nothing outstanding and
a history that agrees with the registers, leaves such a state or waits for the answer to its last request. -/

namespace Sys2Proof.Machine

/-! ### Views of a history -/

theorem BusView.after_append {v w : BusView} {xs : List Event} (h : v.after xs = some w) (ys : List Event) :
    v.after (xs ++ ys) = w.after ys := by
  induction xs generalizing v with
  | nil => cases h; rfl
  | cons e rest ih =>
    simp only [BusView.after] at h
    simp only [List.cons_append, BusView.after]
    cases hn : v.next e with
    | none => rw [hn] at h; cases h
    | some u => rw [hn] at h; exact ih h

/-- A hand-over to a collaborator (R40): no event of the bus. -/
def Event.IsHandOver : Event → Prop
  | .lamp _ => True
  | .delay _ => True
  | .report _ => True
  | .log _ => True
  | .busReq _ => False
  | .busResp _ _ _ => False
  | .busStop _ => False

/-- Between two byte operations a hand-over changes nothing on the bus. -/
theorem BusView.next_handOver {v : BusView} {e : Event} (he : e.IsHandOver) (hp : v.pending = none)
    (ho : v.owesStop = false) : v.next e = some v := by
  cases e with
  | busReq => exact he.elim
  | busResp => exact he.elim
  | busStop => exact he.elim
  | lamp | delay | report | log => simp [BusView.next, hp, ho]

theorem BusView.after_handOvers {v : BusView} (hp : v.pending = none) (ho : v.owesStop = false) {es : List Event}
    (h : ∀ e ∈ es, e.IsHandOver) : v.after es = some v := by
  induction es with
  | nil => rfl
  | cons e rest ih =>
    rw [BusView.after, BusView.next_handOver (h e (by simp)) hp ho]
    exact ih fun e he => h e (List.mem_cons_of_mem _ he)

/-- A classification emits hand-overs only (R190, R191). -/
theorem classifyEvents_handOver (params : Params) (hits : Triple Bool) (o : Orient) :
    ∀ e ∈ classifyEvents params hits o, e.IsHandOver := by
  have blink : ∀ code token n, ∀ e ∈ blinkEvents code token n, e.IsHandOver := by
    intro code token n
    induction n with
    | zero => exact nofun
    | succ n ih =>
      rw [blinkEvents_succ]
      simp only [List.cons_append, List.nil_append, List.forall_mem_cons]
      exact ⟨trivial, trivial, trivial, trivial, ih⟩
  have ifs : ∀ (c : Bool) (es : List Event), (∀ e ∈ es, e.IsHandOver) →
      ∀ e ∈ (if c then es else []), e.IsHandOver := by
    intro c es h
    cases c with
    | true => exact h
    | false => exact nofun
  intro e he
  simp only [classifyEvents, List.mem_append] at he
  rcases he with ((he | he) | he) | he
  · exact ifs _ _ (blink _ _ _) e he
  · exact ifs _ _ (blink _ _ _) e he
  · exact ifs _ _ (blink _ _ _) e he
  · exact ifs _ [.lamp o.lamp] (by simp [Event.IsHandOver]) e he

/-! ### Nothing outstanding -/

/-- The view the registers claim while nothing is outstanding (R28, R30). -/
def State.openView (s : State) : BusView :=
  { pending := none, owesStop := false, opened := if s.status.held then some s.status.hdir else none }

/-- Nothing is outstanding, and the history agrees with `HELD` and `HDIR`. -/
structure State.BusIdle (s : State) : Prop where
  xbusy : s.status.xbusy = false
  history : BusView.start.after s.events = some s.openView

theorem State.BusIdle.consistent {s : State} (h : s.BusIdle) : s.BusConsistent :=
  ⟨s.openView, h.history, rfl, rfl, h.xbusy⟩

theorem State.BusConsistent.busIdle {s : State} (h : s.BusConsistent) (hx : s.status.xbusy = false) : s.BusIdle := by
  obtain ⟨⟨pending, owes, opened⟩, hv, howes, hopened, hpending⟩ := h
  cases pending with
  | some r => rw [hx] at hpending; cases hpending.1
  | none =>
    dsimp only at howes hopened
    exact ⟨hx, by rw [hv, howes, hopened]; rfl⟩

/-- Two states the bus protocol does not tell apart while nothing is outstanding. -/
structure SameBus (s t : State) : Prop where
  events : t.events = s.events
  xbusy : t.status.xbusy = s.status.xbusy
  held : t.status.held = s.status.held
  hdir : t.status.hdir = s.status.hdir

theorem SameBus.openView {s t : State} (h : SameBus s t) : t.openView = s.openView := by
  unfold State.openView
  rw [h.held, h.hdir]

theorem SameBus.busIdle {s t : State} (h : SameBus s t) (hs : s.BusIdle) : t.BusIdle :=
  ⟨h.xbusy.trans hs.xbusy, by rw [h.events, h.openView]; exact hs.history⟩

/-- Hand-overs leave the bus as it was. -/
theorem State.BusIdle.handOvers {s t : State} {es : List Event} (hs : s.BusIdle) (he : ∀ e ∈ es, e.IsHandOver)
    (h : SameBus { s with events := s.events ++ es } t) : t.BusIdle := by
  refine h.busIdle ⟨hs.xbusy, ?_⟩
  rw [BusView.after_append hs.history, BusView.after_handOvers rfl rfl he]
  rfl

/-- A request that passes the continuation check is one the protocol allows (R72, R121). -/
theorem openView_next_busReq {s : State} {q : BusReq} (h : s.status.mayTransfer q.dir q.start = true) :
    s.openView.next (.busReq q) = some { s.openView with pending := some q } := by
  have allowed : q.start = true ∨ s.openView.opened = some q.dir := by
    rcases (mayTransfer_eq_true_iff _ _ _).1 h with hs | ⟨hh, hd⟩
    · exact .inl hs
    · exact .inr (by simp [State.openView, hh, hd])
  exact if_pos ⟨rfl, allowed⟩

/-- The history up to a request that is allowed. -/
theorem State.BusIdle.after_busReq {s : State} (hs : s.BusIdle) {q : BusReq}
    (h : s.status.mayTransfer q.dir q.start = true) (es : List Event) :
    BusView.start.after (s.events ++ .busReq q :: es) = BusView.after { s.openView with pending := some q } es := by
  rw [BusView.after_append hs.history, BusView.after, openView_next_busReq h]

theorem busConsistent_atWait {s : State} (hs : s.BusIdle) {q : BusReq} (h : s.status.mayTransfer q.dir q.start = true)
    (b : Bus) : (atWait s q b).BusConsistent :=
  ⟨_, hs.after_busReq h [], rfl, rfl, rfl, rfl⟩

theorem busIdle_afterError {s : State} (hs : s.BusIdle) {q : BusReq} (h : s.status.mayTransfer q.dir q.start = true)
    {nack arb : Bool} (he : (nack || arb) = true) (rdata : Byte) (b : Bus) :
    (afterError s q nack arb rdata b).BusIdle where
  xbusy := rfl
  history := by
    refine (hs.after_busReq h _).trans ?_
    simp [BusView.after, BusView.next, he, State.openView, afterError]

theorem busIdle_afterOk {s : State} (hs : s.BusIdle) {q : BusReq} (h : s.status.mayTransfer q.dir q.start = true)
    (rdata : Byte) (b : Bus) : (afterOk s q rdata b).BusIdle where
  xbusy := rfl
  history := by
    refine (hs.after_busReq h _).trans ?_
    cases hq : q.stop <;> simp [BusView.after, BusView.next, State.openView, afterOk, hq]

/-! ### Programs -/

/-- Started with nothing outstanding, the program returns so, or waits in a state whose history obeys the protocol. -/
def Prog.KeepsBus {α : Type} (p : Prog α) : Prop := ∀ s, s.BusIdle → (p.run s).Post State.BusIdle State.BusConsistent

theorem Prog.KeepsBus.final {α : Type} {p : Prog α} (hp : p.KeepsBus) {s : State} (hs : s.BusIdle) :
    (p.run s).final.BusConsistent := by
  have h := hp s hs
  cases hr : p.run s with
  | ret a t => rw [hr] at h; exact State.BusIdle.consistent h
  | never t => rw [hr] at h; exact h

theorem Prog.KeepsBus.ret {α : Type} (a : α) : (Prog.ret a).KeepsBus := fun _ hs => hs

theorem Prog.KeepsBus.act {α : Type} {f : State → State} {p : Prog α} (hf : ∀ s, s.BusIdle → (f s).BusIdle)
    (hp : p.KeepsBus) : (Prog.act f p).KeepsBus := fun s hs => hp (f s) (hf s hs)

/-- One line that has nothing to do with the bus, and the rest. -/
theorem Prog.KeepsBus.line {α : Type} {f : State → State} {p : Prog α} (hf : ∀ s, SameBus s (f s)) (hp : p.KeepsBus) :
    (Prog.act f p).KeepsBus := .act (fun s => (hf s).busIdle) hp

/-- One hand-over, and the rest. -/
theorem Prog.KeepsBus.emit {α : Type} {e : State → Event} {p : Prog α} (he : ∀ s, (e s).IsHandOver) (hp : p.KeepsBus) :
    (Prog.act (fun s => s.emit (e s)) p).KeepsBus :=
  .act (fun s hs => hs.handOvers (es := [e s]) (by simpa using he s) ⟨rfl, rfl, rfl, rfl⟩) hp

theorem Prog.KeepsBus.look {α : Type} {p : State → Prog α} (hp : ∀ s, (p s).KeepsBus) : (Prog.look p).KeepsBus :=
  fun s hs => hp s s hs

theorem Prog.KeepsBus.bind {α β : Type} {p : Prog α} {q : α → Prog β} (hp : p.KeepsBus) (hq : ∀ a, (q a).KeepsBus) :
    (p.bind q).KeepsBus := by
  intro s hs
  have h := hp s hs
  rw [Prog.run_bind]
  cases hr : p.run s with
  | ret a t => rw [hr] at h; exact hq a t h
  | never t => rw [hr] at h; exact h

theorem Prog.KeepsBus.seq {α β : Type} {p : Prog α} {q : Prog β} (hp : p.KeepsBus) (hq : q.KeepsBus) :
    (p.seq q).KeepsBus := hp.bind fun _ => hq

theorem xfer_keepsBus (sa : SlaveAddr) (dir : Dir) (data : Byte) (start stop ack : Bool) :
    (xfer sa dir data start stop ack).KeepsBus := by
  intro s hs
  rcases xfer_cases sa dir data start stop ack s with
    ⟨-, h⟩ | ⟨hm, b, -, h⟩ | ⟨hm, n, a, r, b, he, -, h⟩ | ⟨hm, r, b, -, h⟩ <;> rw [h]
  · exact SameBus.busIdle (s := s) ⟨rfl, rfl, rfl, rfl⟩ hs
  · exact busConsistent_atWait hs hm b
  · exact busIdle_afterError hs hm he r b
  · exact busIdle_afterOk hs hm r b

theorem init_keepsBus : init.KeepsBus := by
  have failed : initFailed.KeepsBus := .line (fun _ => ⟨rfl, rfl, rfl, rfl⟩) (.ret _)
  have wake : initWake.KeepsBus := .line (fun _ => ⟨rfl, rfl, rfl, rfl⟩) <| .look fun _ =>
    (xfer_keepsBus _ _ _ _ _ _).bind fun r => by
      cases r with
      | fail => exact failed
      | ok c => exact .line (fun _ => ⟨rfl, rfl, rfl, rfl⟩) (.ret _)
  refine .line (fun _ => ⟨rfl, rfl, rfl, rfl⟩) <| .line (fun _ => ⟨rfl, rfl, rfl, rfl⟩) <| .look fun _ =>
    (xfer_keepsBus _ _ _ _ _ _).bind fun r => ?_
  cases r with
  | fail => exact failed
  | ok c => exact wake

theorem rdAx_keepsBus (d : Axis) (reg : Byte) : (rdAx d reg).KeepsBus := by
  have failed : (rdAxFailed d).KeepsBus := .line (fun _ => ⟨rfl, rfl, rfl, rfl⟩) (.ret _)
  have low : ∀ hi, (rdAxLow d hi).KeepsBus := fun hi =>
    .line (fun _ => ⟨rfl, rfl, rfl, rfl⟩) <| .look fun _ => (xfer_keepsBus _ _ _ _ _ _).bind fun r => by
      cases r with
      | fail => exact failed
      | ok lo => exact .line (fun _ => ⟨rfl, rfl, rfl, rfl⟩) <| .line (fun _ => ⟨rfl, rfl, rfl, rfl⟩) (.ret _)
  have high : (rdAxHigh d).KeepsBus :=
    .line (fun _ => ⟨rfl, rfl, rfl, rfl⟩) <| .look fun _ => (xfer_keepsBus _ _ _ _ _ _).bind fun r => by
      cases r with
      | fail => exact failed
      | ok hi => exact low hi
  refine .line (fun _ => ⟨rfl, rfl, rfl, rfl⟩) <| .look fun _ => (xfer_keepsBus _ _ _ _ _ _).bind fun r => ?_
  cases r with
  | fail => exact failed
  | ok c => exact high

theorem classify_keepsBus : classify.KeepsBus := by
  intro s hs
  rw [classify_run]
  exact hs.handOvers (classifyEvents_handOver _ _ _) ⟨rfl, rfl, rfl, rfl⟩

theorem readAxes_keepsBus (l : List Axis) : (readAxes l).KeepsBus := by
  induction l with
  | nil => exact .ret _
  | cons i rest ih =>
    exact .line (fun _ => ⟨rfl, rfl, rfl, rfl⟩) <| .look fun _ => (rdAx_keepsBus i _).seq ih

theorem cycle_keepsBus : cycle.KeepsBus :=
  (readAxes_keepsBus _).seq <| classify_keepsBus.seq <| .emit (fun _ => trivial) <| .emit (fun _ => trivial) <| .ret _

/-- The two lines that end a command. -/
theorem ending_keepsBus (failed : State → Bool) :
    (Prog.act (fun s => s.setFail (failed s)) (.act (·.finish) (.ret ()))).KeepsBus :=
  .line (fun _ => ⟨rfl, rfl, rfl, rfl⟩) <| .line (fun _ => ⟨rfl, rfl, rfl, rfl⟩) <| .ret _

theorem progXfer_keepsBus (sa : SlaveAddr) (dir : Dir) (data : Byte) (start stop ack : Bool) :
    (progXfer sa dir data start stop ack).KeepsBus :=
  .line (fun _ => ⟨rfl, rfl, rfl, rfl⟩) <| .line (fun _ => ⟨rfl, rfl, rfl, rfl⟩) <|
    (xfer_keepsBus _ _ _ _ _ _).bind fun r => ending_keepsBus fun _ => r = .fail

theorem progDriver_keepsBus (op : Top) {p : Prog Verdict} (hp : p.KeepsBus) : (progDriver op p).KeepsBus :=
  .line (fun _ => ⟨rfl, rfl, rfl, rfl⟩) <| hp.bind fun r => ending_keepsBus fun _ => r = .fail

/-- The forced stop of FSTOP closes whatever was open (R123). -/
theorem progFstop_keepsBus : progFstop.KeepsBus := by
  intro s hs
  rw [progFstop_run]
  exact ⟨hs.xbusy, (BusView.after_append hs.history _).trans rfl⟩

theorem runInitFailed_keepsBus : runInitFailed.KeepsBus := by
  intro s hs
  rw [runInitFailed_run]
  exact hs.handOvers (es := [.log .initFailed]) (by simp [Event.IsHandOver]) ⟨rfl, rfl, rfl, rfl⟩

theorem progRun_keepsBus : progRun.KeepsBus := by
  refine .line (fun _ => ⟨rfl, rfl, rfl, rfl⟩) <| init_keepsBus.bind fun r => ?_
  cases r with
  | ok => exact .line (fun _ => ⟨rfl, rfl, rfl, rfl⟩) (.ret _)
  | fail => exact runInitFailed_keepsBus

theorem program_keepsBus (i : Instr) : (program i).KeepsBus := by
  have accepted : ∀ op {p : Prog Unit}, p.KeepsBus → (Prog.act (·.accept op) p).KeepsBus :=
    fun _ _ hp => .line (fun _ => ⟨rfl, rfl, rfl, rfl⟩) hp
  cases i with
  | wrb => exact progXfer_keepsBus _ _ _ _ _ _
  | rdb => exact progXfer_keepsBus _ _ _ _ _ _
  | fstop => exact progFstop_keepsBus
  | init => exact progDriver_keepsBus _ init_keepsBus
  | rdax d reg =>
    show (progRdax d reg).KeepsBus
    unfold progRdax
    split
    · exact progDriver_keepsBus _ (rdAx_keepsBus _ _)
    · exact .line (fun _ => ⟨rfl, rfl, rfl, rfl⟩) (.ret _)
  | clsfy => exact accepted _ <| classify_keepsBus.seq <| ending_keepsBus fun _ => false
  | cycle => exact accepted _ <| cycle_keepsBus.seq <| ending_keepsBus fun s => s.status.degraded
  | run => exact progRun_keepsBus

/-! ### Steps -/

/-- The history of a state after a step obeys the protocol, and the registers agree with it. -/
theorem step_busConsistent {s t : State} (hr : s.Quiescent ∨ s.Looping) (hs : s.BusConsistent)
    (h : step s = .next t) : t.BusConsistent := by
  cases step_cases h with
  | reset b host portOut => exact resetWith_busConsistent s.params b host portOut
  | port => exact hs
  | refusal => exact hs
  | command i host portOut busy =>
    have idle := hs.busIdle (idle_of_busy_false hr busy).settled.xbusy
    exact (program_keepsBus i).final (s := s.withHost host portOut) ⟨idle.xbusy, idle.history⟩
  | loop host portOut inLoop =>
    obtain ⟨-, hx, -⟩ := (inLoop_iff s).1 inLoop
    have idle := hs.busIdle hx
    exact cycle_keepsBus.final (s := s.withHost host portOut) ⟨idle.xbusy, idle.history⟩

/-- Settles O5: a step starts its command or cycle with nothing outstanding, and every program keeps the protocol from
there. -/
theorem eventHistoryKeepsBusProtocol : Obligations.EventHistoryKeepsBusProtocol :=
  fun _ _ hr hs h => ⟨step_rest hr h, step_busConsistent hr hs h⟩

end Sys2Proof.Machine
end

section
/-! The descriptor, the register port and the register layouts (R26, R27, R32, R33, R37 to R39). -/

namespace Sys2Proof.Machine

/-! ### The descriptor (R26) -/

theorem toNat_descriptor (r : BusReq) :
    r.descriptor.toNat =
      r.ack.toNat * 2 ^ 19 + r.stop.toNat * 2 ^ 18 + r.start.toNat * 2 ^ 17 + 2 ^ 16 + r.sa.toNat * 2 ^ 9
        + (decide (r.dir = .read)).toNat * 2 ^ 8 + r.data.toNat := by
  simp only [BusReq.descriptor, toNat_append_add, BitVec.toNat_ofBool, Dir.toNat_toBit, BitVec.toNat_ofNat]
  omega

/-- The field `W[27:8]` of a Format T word with `RUN` = 1 is the descriptor of the request it stands for (R26, R92). -/
theorem descriptor_eq_formatT (r : BusReq) :
    r.descriptor = (formatT r.ack r.stop r.start true r.sa (decide (r.dir = .read)) r.data).extractLsb' 8 20 := by
  apply BitVec.eq_of_toNat_eq
  rw [toNat_descriptor, toNat_extract, toNat_formatT]
  have hsa := r.sa.isLt
  have hdata := r.data.isLt
  have hack := r.ack.toNat_le
  have hstop := r.stop.toNat_le
  have hstart := r.start.toNat_le
  have hdir := (decide (r.dir = .read)).toNat_le
  rw [Bool.toNat_true]
  omega

/-- Settles O12: both sides are the Format T field of the same operands. -/
theorem descriptorIsFieldOfCommandWord : Obligations.DescriptorIsFieldOfCommandWord :=
  fun _ _ _ _ _ => ⟨descriptor_eq_formatT _, descriptor_eq_formatT _⟩

/-! ### Commands and register writes of the host (R37, R39) -/

/-- A step whose next host action is known carries it out. -/
theorem step_act (s : State) (act : HostAction) (rest : List HostAction) :
    step { s with host := act :: rest } = hostStep act { s with host := rest } := rfl

theorem hostStep_command (w : Word) (s : State) : hostStep (.write 0 w) s = present w s := rfl

theorem hostStep_write {n : BitVec 8} (h : n ≠ 0) (w : Word) (s : State) :
    hostStep (.write n w) s = .next (s.portWrite n w) := if_neg h

theorem present_of_decode {w : Word} {s : State} {i : Instr} (hb : s.status.busy = false) (hd : decode w = .ok i) :
    present w s = exec i s := by
  simp [present, hb, hd]

theorem present_busy {s : State} (hb : s.status.busy = true) (w : Word) : present w s = .next s := by
  simp [present, hb]

/-- The word `decodeTableWord` reads is the one the host presents. -/
theorem decode_commandWord {nbits w : Nat} {i : Instr} (h : decodeTableWord nbits w = some i) :
    decode (commandWord nbits w) = .ok i := by
  unfold decodeTableWord at h
  unfold commandWord
  split at h
  · split at h
    · rename_i j hd
      cases h
      exact hd
    · cases h
  · cases h

/-- Settles O14: an idle machine accepts the word it finds first among the host's actions. -/
theorem stepRunsTheDecodedCommand : Obligations.StepRunsTheDecodedCommand := by
  refine ⟨fun s w rest i hb hd => ?_, fun s w i hb _ hd => ?_⟩
  · rw [step_act, hostStep_command]
    exact present_of_decode hb hd
  · unfold State.withFetchWord State.presentNext
    rw [step_act, hostStep_command]
    exact present_of_decode hb (decode_commandWord hd)

/-- Settles O16: both kinds of write test `BUSY`. -/
theorem busyMachineLosesHostWrites : Obligations.BusyMachineLosesHostWrites := by
  intro s n w rest hb
  rw [step_act]
  by_cases hn : n = 0
  · subst hn
    exact present_busy (s := { s with host := rest }) hb w
  · rw [hostStep_write hn, State.portWrite_busy (by exact hb)]

/-- What a register write leaves for the port to read: the word written at its own number when that is in `F` or `P`,
every other register as before (R38, R39). -/
theorem portRead_storeRegister (s : State) (n m : BitVec 8) (v : Sample) :
    (s.storeRegister n v).portRead m =
      if m = n ∧ 6 ≤ n.toNat ∧ n.toNat ≤ 14 then v.setWidth 32 else s.portRead m := by
  by_cases hn : 6 ≤ n.toNat ∧ n.toNat ≤ 14
  · have named : n.toNat = 6 ∨ n.toNat = 7 ∨ n.toNat = 8 ∨ n.toNat = 9 ∨ n.toNat = 10 ∨ n.toNat = 11 ∨ n.toNat = 12 ∨
      n.toNat = 13 ∨ n.toNat = 14 := by omega
    simp only [hn, and_self, and_true, ← BitVec.toNat_inj]
    rcases named with h | h | h | h | h | h | h | h | h <;>
    · simp only [State.storeRegister, State.portRead, h]
      split <;> simp_all [toPort]
  · rw [if_neg fun h => hn h.2]
    unfold State.storeRegister
    split
    iterate 9 · omega
    · rfl

/-- Settles O17: a write to a number other than 0 is a register write. -/
theorem idleRegisterWriteReachesFrameAndPrior : Obligations.IdleRegisterWriteReachesFrameAndPrior := by
  intro s n w rest hb hn
  refine ⟨_, (step_act s _ rest).trans (hostStep_write hn w _), State.portWrite_frame _ n w, fun m => ?_⟩
  have idle : State.portWrite { s with host := rest } n w =
      State.storeRegister { s with host := rest } n (w.setWidth 16) := by simp [State.portWrite, hb]
  rw [idle, portRead_storeRegister]
  rfl

/-! ### Register reads (R38) -/

/-- Numbers that name no register read as 0. -/
theorem portRead_unnamed (s : State) {n : BitVec 8} (h : n = 0 ∨ 15 ≤ n.toNat) : s.portRead n = 0 := by
  unfold State.portRead
  rcases h with rfl | h
  · rfl
  · split
    iterate 14 · omega
    · rfl

/-- The frame stands at numbers 6 to 11, in axis order. -/
theorem portRead_frame (s : State) (i : Axis) {n : BitVec 8} (h : n.toNat = 6 + i.number.toNat) :
    s.portRead n = (s.f.get i).setWidth 32 := by
  unfold State.portRead
  cases i <;> rw [h] <;> rfl

/-- Settles O18: the word appended is the one the port shows. -/
theorem registerReadReturnsTheRegister : Obligations.RegisterReadReturnsTheRegister := by
  intro s n rest
  refine ⟨s.portRead n, rfl, ?_, ?_, ?_, ?_, ?_, fun i h => portRead_frame s i h, ?_, ?_, ?_, portRead_unnamed s⟩ <;>
  · rintro rfl
    rfl

/-! ### The layouts (R27, R32, R33) -/

/-- One bit of a word, as a number. -/
theorem getLsbD_eq_iff {n : Nat} (x : BitVec n) (k : Nat) (b : Bool) :
    x.getLsbD k = b ↔ x.toNat / 2 ^ k % 2 = b.toNat := by
  rw [← toNat_getLsbD]
  cases x.getLsbD k <;> cases b <;> decide

/-- The bits of `STATUS` (R27). -/
theorem Status.layout (t : Status) :
    t.toWord.getLsbD 0 = t.busy ∧ t.toWord.getLsbD 1 = t.xbusy ∧ t.toWord.getLsbD 2 = t.err ∧
    t.toWord.getLsbD 3 = t.nack ∧ t.toWord.getLsbD 4 = t.arblst ∧ t.toWord.getLsbD 5 = t.held ∧
    t.toWord.getLsbD 6 = decide (t.hdir = .read) ∧ t.toWord.getLsbD 7 = t.fail ∧ t.toWord.getLsbD 8 = t.initok ∧
    t.toWord.getLsbD 9 = t.initfail ∧ t.toWord.getLsbD 10 = t.ill ∧ t.toWord.getLsbD 11 = t.seqf ∧
    t.toWord.getLsbD 12 = t.halt ∧ (∀ i : Axis, t.toWord.getLsbD (13 + i.number.toNat) = t.deg.get i) ∧
    t.toWord.extractLsb' 19 13 = 0 := by
  simp only [getLsbD_eq_iff, extract_eq_iff, Status.toNat_toWord, BitVec.reduceToNat]
  have le := fun b : Bool => b.toNat_le
  have h0 := le t.busy; have h1 := le t.xbusy; have h2 := le t.err; have h3 := le t.nack; have h4 := le t.arblst
  have h5 := le t.held; have h6 := le (decide (t.hdir = .read)); have h7 := le t.fail; have h8 := le t.initok
  have h9 := le t.initfail; have h10 := le t.ill; have h11 := le t.seqf; have h12 := le t.halt
  have h13 := le t.deg.accelX; have h14 := le t.deg.accelY; have h15 := le t.deg.accelZ
  have h16 := le t.deg.gyroX; have h17 := le t.deg.gyroY; have h18 := le t.deg.gyroZ
  refine ⟨by omega, by omega, by omega, by omega, by omega, by omega, by omega, by omega, by omega, by omega, by omega,
    by omega, by omega, fun i => ?_, by omega⟩
  cases i <;> simp only [Axis.number, PerAxis.get, BitVec.reduceToNat] <;> omega

/-- The bit fields of `CLASS` (R32). -/
theorem Classes.layout (c : Classes) :
    c.toWord.extractLsb' 0 3 = c.orient.code ∧ c.toWord.getLsbD 3 = c.impact.x ∧ c.toWord.getLsbD 4 = c.impact.y ∧
      c.toWord.getLsbD 5 = c.impact.z ∧ c.toWord.extractLsb' 6 2 = c.lamp.code ∧ c.toWord.extractLsb' 8 24 = 0 := by
  have ho := c.orient.code.isLt
  have hl := c.lamp.code.isLt
  have hx := c.impact.x.toNat_le
  have hy := c.impact.y.toNat_le
  have hz := c.impact.z.toNat_le
  simp only [getLsbD_eq_iff, extract_eq_iff, Classes.toNat_toWord, BitVec.reduceToNat]
  omega

/-- The fields of `SEQ` (R33). -/
theorem Seq.layout (q : Seq) :
    q.toWord.extractLsb' 0 4 = q.top.code ∧ q.toWord.extractLsb' 4 4 = q.step.code ∧
      q.toWord.extractLsb' 8 3 = q.axi.number ∧ q.toWord.extractLsb' 11 3 = q.phase.code ∧
      q.toWord.extractLsb' 14 18 = 0 := by
  have ht := q.top.code.isLt
  have hs := q.step.code.isLt
  have ha := q.axi.number.isLt
  have hp := q.phase.code.isLt
  simp only [extract_eq_iff, Seq.toNat_toWord, BitVec.reduceToNat]
  omega

/-- Settles O19: each field is read off the word's value at its weight; the codes are those of the definitions. -/
theorem statusClassAndSeqLayouts : Obligations.StatusClassAndSeqLayouts := by
  refine ⟨Status.layout, fun c => ?_, fun q => ?_⟩
  · obtain ⟨ho, hx, hy, hz, hl, hrest⟩ := c.layout
    refine ⟨ho.trans ?_, hx, hy, hz, hl.trans ?_, hrest⟩
    · cases c.orient <;> rfl
    · cases c.lamp <;> rfl
  · obtain ⟨ht, hs, ha, hp, hrest⟩ := q.layout
    refine ⟨ht.trans ?_, hs.trans ?_, ha.trans ?_, hp.trans ?_, hrest⟩
    · cases q.top <;> rfl
    · cases q.step <;> rfl
    · cases q.axi <;> rfl
    · cases q.phase <;> rfl

/-- Settles O27: FSTOP calls the forced stop and nothing else. -/
theorem fstopReleasesTheBus : Obligations.FstopReleasesTheBus := fun s => by
  rw [exec_eq_program]
  show Host.Outcome.next (progFstop.run s).final = _
  rw [progFstop_run]
  rfl

end Sys2Proof.Machine
end

section
/-! Byte operations and driver sequences that are never answered, and RUN after a failed `Init` (R34, R122, R141, R144,
R168). -/

namespace Sys2Proof.Machine

/-! ### What the bus answers, taken apart -/

theorem Bus.serves_nil {b b' : Bus} : b.Serves [] b' ↔ b = b' := Iff.rfl

theorem Bus.serves_cons {b b' : Bus} {q : BusReq} {a : BusAnswer} {rest : List (BusReq × BusAnswer)} :
    b.Serves ((q, a) :: rest) b' ↔ ∃ m, b.answer q = (a, m) ∧ m.Serves rest b' :=
  ⟨fun ⟨ha, hs⟩ => ⟨_, Prod.ext ha rfl, hs⟩, fun ⟨m, ha, hs⟩ => by
    refine ⟨by rw [ha], ?_⟩
    rw [ha]
    exact hs⟩

/-- One answer that completes. -/
theorem Bus.serves_asAnswers_cons {b b' : Bus} {q : BusReq} {c : Completion} {x : List (BusReq × Completion)}
    {y : List (BusReq × BusAnswer)} :
    b.Serves (asAnswers ((q, c) :: x) ++ y) b' ↔
      ∃ m, b.answer q = (.complete c.nack c.arb c.rdata, m) ∧ m.Serves (asAnswers x ++ y) b' := Bus.serves_cons

/-- One answer, and no more. -/
theorem Bus.serves_last {b b' : Bus} {q : BusReq} {a : BusAnswer} :
    b.Serves [(q, a)] b' ↔ b.answer q = (a, b') := by
  rw [Bus.serves_cons]
  exact ⟨fun ⟨m, ha, hm⟩ => by cases hm; exact ha, fun h => ⟨b', h, rfl⟩⟩

/-- An answer without error, as the oracle gives it. -/
theorem Completion.answer_ok {c : Completion} (h : c.isError = false) : c.nack = false ∧ c.arb = false := by
  simpa [Completion.isError] using h

@[simp] theorem exchangeEvents_nil : exchangeEvents [] = [] := rfl

/-- The events of one operation without error. -/
theorem exchangeEvents_ok {q : BusReq} {c : Completion} (h : c.isError = false) (x : List (BusReq × Completion)) :
    exchangeEvents ((q, c) :: x) = [.busReq q, .busResp false false c.rdata] ++ exchangeEvents x := by
  obtain ⟨hn, ha⟩ := Completion.answer_ok h
  simp [exchangeEvents, h, hn, ha]

/-- The events of one operation that ends in an error. -/
theorem exchangeEvents_error {q : BusReq} {c : Completion} (h : c.isError = true) :
    exchangeEvents [(q, c)] = [.busReq q, .busResp c.nack c.arb c.rdata, .busStop true] := by
  simp [exchangeEvents, h]

/-! ### WRB and RDB (R122) -/

theorem progXfer_never {s : State} {sa : SlaveAddr} {dir : Dir} {data : Byte} {start stop ack : Bool} {b : Bus}
    (h : start = true ∨ (s.status.held = true ∧ s.status.hdir = dir))
    (ha : s.bus.answer (BusReq.of sa dir data start stop ack) = (.never, b)) :
    (progXfer sa dir data start stop ack).run s =
      .never (atWait ((s.accept .xfer).setStep .op0) (BusReq.of sa dir data start stop ack) b) := by
  have hm : ((s.accept .xfer).setStep .op0).status.mayTransfer dir start = true :=
    (mayTransfer_eq_true_iff _ _ _).2 h
  unfold progXfer
  rw [Prog.run_act, Prog.run_act, Prog.run_bind, xfer_never hm ha]
  rfl

/-- Settles O26: the operation is the whole command, and it stays at its wait point. -/
theorem unansweredByteOperationHangs : Obligations.UnansweredByteOperationHangs := by
  constructor
  · intro s sa data start stop b h ha
    rw [exec_eq_program, ← (descriptorIsFieldOfCommandWord sa data start stop false).1]
    exact congrArg (fun p => Host.Outcome.next (Proc.final p)) (progXfer_never h ha)
  · intro s sa start ack stop b h ha
    rw [exec_eq_program, ← (descriptorIsFieldOfCommandWord sa 0 start stop ack).2]
    exact congrArg (fun p => Host.Outcome.next (Proc.final p)) (progXfer_never h ha)

/-! ### `Init` and `RdAx`, operation by operation -/

/-- Operation 1 of `Init` when it is never answered. -/
theorem init_wake_never {s : State} {c : Byte} {b b' : Bus}
    (ha : s.bus.answer (powerReq s.params) = (.complete false false c, b))
    (hb : b.answer (wakeReq s.params) = (.never, b')) :
    init.run s = .never (atWait (initSelected s c b) (wakeReq s.params) b') := by
  rw [init_selected ha, initWake_run]
  erw [xfer_never (s := initSelected s c b) (by rfl) hb]
  rfl

/-- Operation 1 of `Init` when it ends in an error. -/
theorem init_wake_error {s : State} {c r : Byte} {n a : Bool} {b b' : Bus}
    (ha : s.bus.answer (powerReq s.params) = (.complete false false c, b))
    (hb : b.answer (wakeReq s.params) = (.complete n a r, b')) (he : (n || a) = true) :
    init.run s = .ret .fail (markInitFail (afterError (initSelected s c b) (wakeReq s.params) n a r b')) := by
  rw [init_selected ha, initWake_run]
  erw [xfer_error (s := initSelected s c b) (by rfl) hb he]
  rfl

theorem rdAx_select_never {d : Axis} {reg : Byte} {s : State} {b : Bus}
    (ha : s.bus.answer (selectReq s.params.slaveAddr reg) = (.never, b)) :
    (rdAx d reg).run s = .never (atWait (s.setStep .op0) (selectReq s.params.slaveAddr reg) b) := by
  rw [rdAx_run, xfer_never (s := s.setStep .op0) (by rfl) ha]
  rfl

/-- Operation 0 of `RdAx` when it succeeds: operation 1 follows. -/
theorem rdAx_selected {d : Axis} {reg c : Byte} {s : State} {b : Bus}
    (ha : s.bus.answer (selectReq s.params.slaveAddr reg) = (.complete false false c, b)) :
    (rdAx d reg).run s = (rdAxHigh d).run (axisSelected s reg c b) := by
  rw [rdAx_run, xfer_ok (s := s.setStep .op0) (by rfl) ha]
  rfl

theorem rdAx_high_never {d : Axis} {reg c : Byte} {s : State} {b b' : Bus}
    (ha : s.bus.answer (selectReq s.params.slaveAddr reg) = (.complete false false c, b))
    (hb : b.answer (highReq s.params.slaveAddr) = (.never, b')) :
    (rdAx d reg).run s =
      .never (atWait ((axisSelected s reg c b).setStep .op1) (highReq s.params.slaveAddr) b') := by
  rw [rdAx_selected ha, rdAxHigh_run]
  erw [xfer_never (s := (axisSelected s reg c b).setStep .op1) (by rfl) hb]
  rfl

theorem rdAx_low_never {d : Axis} {reg c hi : Byte} {s : State} {b b' b'' : Bus}
    (ha : s.bus.answer (selectReq s.params.slaveAddr reg) = (.complete false false c, b))
    (hb : b.answer (highReq s.params.slaveAddr) = (.complete false false hi, b'))
    (hc : b'.answer (lowReq s.params.slaveAddr) = (.never, b'')) :
    (rdAx d reg).run s =
      .never (atWait ((axisHigh s reg c hi b b').setStep .op2) (lowReq s.params.slaveAddr) b'') := by
  rw [rdAx_selected ha, rdAxHigh_run]
  erw [xfer_ok (s := (axisSelected s reg c b).setStep .op1) (by rfl) hb]
  rw [Proc.andThen_ret]
  dsimp only
  rw [rdAxLow_run]
  erw [xfer_never (s := (axisHigh s reg c hi b b').setStep .op2) (by rfl) hc]
  rfl

/-! ### INIT, RUN and RDAX that hang -/

/-- A command that hangs where its procedure does. -/
theorem progDriver_never {op : Top} {p : Prog Verdict} {s t : State} (h : p.run (s.accept op) = .never t) :
    (progDriver op p).run s = .never t := by
  unfold progDriver
  rw [Prog.run_act, Prog.run_bind, h]
  rfl

theorem progRun_never {s t : State} (h : init.run (s.accept .run) = .never t) : progRun.run s = .never t := by
  unfold progRun
  rw [Prog.run_act, Prog.run_bind, h]
  rfl

/-- What INIT or RUN leaves when operation `q` of `Init` is never answered, the exchanges `x` coming before it. -/
structure InitHang (s : State) (op : Top) (x : List (BusReq × Completion)) (q : BusReq) (b : Bus) (t : State) :
    Prop where
  hung : t.Hung
  top : t.seq.top = op
  step : t.seq.step = if x = [] then .op0 else .op1
  events : t.events = s.events ++ exchangeEvents x ++ [.busReq q]
  xd : t.xd = q.descriptor
  dr : t.dr = q.data
  bus : t.bus = b
  fail : t.status.fail = s.status.fail
  initfail : t.status.initfail = s.status.initfail
  initok : t.status.initok = false

theorem init_hangs {s : State} {op : Top} {x : List (BusReq × Completion)} {q : BusReq} {b : Bus}
    (hop : op = .init ∨ op = .run) (hh : s.status.halt = false) (hx : ∀ e ∈ x, e.2.isError = false)
    (hq : (x = [] ∧ q = powerReq s.params) ∨ (∃ c, x = [(powerReq s.params, c)] ∧ q = wakeReq s.params))
    (hs : s.bus.Serves (asAnswers x ++ [(q, .never)]) b) :
    ∃ t, init.run (s.accept op) = .never t ∧ InitHang s op x q b t := by
  have top : op.UsesBus := by
    rcases hop with rfl | rfl <;> simp [Top.UsesBus]
  rcases hq with ⟨rfl, rfl⟩ | ⟨c, rfl, rfl⟩
  · exact ⟨_, init_never (s := s.accept op) (Bus.serves_last.1 hs),
      ⟨rfl, rfl, hh, rfl, top⟩, rfl, rfl, by simp [atWait, initStart], rfl, rfl, rfl, rfl, rfl, rfl⟩
  · have hc : c.isError = false := hx (powerReq s.params, c) (by simp)
    obtain ⟨hn, ha⟩ := Completion.answer_ok hc
    obtain ⟨m, hp, hw⟩ := Bus.serves_asAnswers_cons.1 hs
    rw [hn, ha] at hp
    exact ⟨_, init_wake_never (s := s.accept op) hp (Bus.serves_last.1 hw),
      ⟨rfl, rfl, hh, rfl, top⟩, rfl, rfl,
      by simp [atWait, initSelected, afterOk, initStart, exchangeEvents_ok hc], rfl, rfl, rfl, rfl, rfl,
      rfl⟩

/-- What RDAX leaves when operation `q` of `RdAx` is never answered, the exchanges `x` coming before it. -/
structure RdaxHang (s : State) (x : List (BusReq × Completion)) (q : BusReq) (b : Bus) (t : State) : Prop where
  hung : t.Hung
  top : t.seq.top = .rdax
  step : t.seq.step.code.toNat = x.length
  events : t.events = s.events ++ exchangeEvents x ++ [.busReq q]
  xd : t.xd = q.descriptor
  bus : t.bus = b
  f : t.f = s.f
  deg : t.status.deg = s.status.deg
  fail : t.status.fail = s.status.fail

theorem rdAx_hangs {s : State} {i : Axis} {reg : Byte} {x : List (BusReq × Completion)} {q : BusReq} {b : Bus}
    (hh : s.status.halt = false) (hx : ∀ e ∈ x, e.2.isError = false)
    (hq : (x = [] ∧ q = selectReq s.params.slaveAddr reg) ∨
      (∃ c, x = [(selectReq s.params.slaveAddr reg, c)] ∧ q = highReq s.params.slaveAddr) ∨
      (∃ c d, x = [(selectReq s.params.slaveAddr reg, c), (highReq s.params.slaveAddr, d)] ∧
        q = lowReq s.params.slaveAddr))
    (hs : s.bus.Serves (asAnswers x ++ [(q, .never)]) b) :
    ∃ t, (rdAx i reg).run (s.accept .rdax) = .never t ∧ RdaxHang s x q b t := by
  have top : Top.rdax.UsesBus := .inr (.inr (.inl rfl))
  rcases hq with ⟨rfl, rfl⟩ | ⟨c, rfl, rfl⟩ | ⟨c, d, rfl, rfl⟩
  · exact ⟨_, rdAx_select_never (s := s.accept .rdax) (Bus.serves_last.1 hs),
      ⟨rfl, rfl, hh, rfl, top⟩, rfl, rfl, by simp [atWait], rfl, rfl, rfl, rfl, rfl⟩
  · have hc : c.isError = false := hx (selectReq s.params.slaveAddr reg, c) (by simp)
    obtain ⟨hn, ha⟩ := Completion.answer_ok hc
    obtain ⟨m, hp, hw⟩ := Bus.serves_asAnswers_cons.1 hs
    rw [hn, ha] at hp
    exact ⟨_, rdAx_high_never (s := s.accept .rdax) hp (Bus.serves_last.1 hw),
      ⟨rfl, rfl, hh, rfl, top⟩, rfl, rfl,
      by simp [atWait, axisSelected, afterOk, exchangeEvents_ok hc], rfl, rfl, rfl, rfl, rfl⟩
  · have hc : c.isError = false := hx (selectReq s.params.slaveAddr reg, c) (by simp)
    have hd : d.isError = false := hx (highReq s.params.slaveAddr, d) (by simp)
    obtain ⟨hn, ha⟩ := Completion.answer_ok hc
    obtain ⟨hn', ha'⟩ := Completion.answer_ok hd
    obtain ⟨m, hp, hm⟩ := Bus.serves_asAnswers_cons.1 hs
    obtain ⟨m', hp', hw⟩ := Bus.serves_asAnswers_cons.1 hm
    rw [hn, ha] at hp
    rw [hn', ha'] at hp'
    exact ⟨_, rdAx_low_never (s := s.accept .rdax) hp hp' (Bus.serves_last.1 hw),
      ⟨rfl, rfl, hh, rfl, top⟩, rfl, rfl,
      by simp [atWait, axisHigh, axisSelected, afterOk, exchangeEvents_ok hc, exchangeEvents_ok hd],
      rfl, rfl, rfl, rfl, rfl⟩

/-- The lines of RDAX for a number that names an axis. -/
theorem program_rdax_number (i : Axis) (reg : Byte) : program (.rdax i.number reg) = progDriver .rdax (rdAx i reg) := by
  show progRdax i.number reg = _
  rw [progRdax, Axis.ofNumber_number]

/-- Settles O33: the command hangs where its procedure does, before any outcome is stored. -/
theorem unansweredDriverOperationHangs : Obligations.UnansweredDriverOperationHangs := by
  refine ⟨fun s i x q b hi hh hx hq hs => ?_, fun s i reg x q b hh hx hq hs => ?_⟩
  · rcases hi with rfl | rfl
    · obtain ⟨t, ht, h⟩ := init_hangs (.inl rfl) hh hx hq hs
      refine ⟨t, ?_, h.hung, h.top, h.step, h.events, h.xd, h.dr, h.bus, h.fail, h.initfail, h.initok⟩
      rw [exec_eq_program]
      exact congrArg (fun p => Host.Outcome.next (Proc.final p)) (progDriver_never ht)
    · obtain ⟨t, ht, h⟩ := init_hangs (.inr rfl) hh hx hq hs
      refine ⟨t, ?_, h.hung, h.top, h.step, h.events, h.xd, h.dr, h.bus, h.fail, h.initfail, h.initok⟩
      rw [exec_eq_program]
      exact congrArg (fun p => Host.Outcome.next (Proc.final p)) (progRun_never ht)
  · obtain ⟨t, ht, h⟩ := rdAx_hangs (i := i) hh hx hq hs
    refine ⟨t, ?_, h.hung, h.top, h.step, h.events, h.xd, h.bus, h.f, h.deg, h.fail⟩
    rw [exec_eq_program, program_rdax_number, progDriver_never ht]
    rfl

/-! ### RUN after a failed `Init` (R168) -/

/-- What RUN leaves once `Init` has failed in state `t` (R168). -/
def afterRunFailed (t : State) : State :=
  { t with
    status := { t.status with fail := true, halt := t.status.halt || t.params.initFatal }
    events := t.events ++ [.log .initFailed] }

theorem exec_run_failed {s t : State} (h : init.run (s.accept .run) = .ret .fail t) :
    exec .run s = .next (afterRunFailed t) := by
  rw [exec_eq_program]
  show Host.Outcome.next (progRun.run s).final = _
  unfold progRun
  rw [Prog.run_act, Prog.run_bind, h, Proc.andThen_ret]
  dsimp only
  rw [runInitFailed_run]
  rfl

/-- The point it stands at: halted when the failure is fatal, in the loop when not (R168). -/
theorem afterRunFailed_rest {t : State} {fatal : Bool} (hf : t.params.initFatal = fatal)
    (hb : t.status.busy = true) (hx : t.status.xbusy = false) (hh : t.status.halt = false) (ht : t.seq.top = .run) (hp : t.seq.phase = .idle) :
    if fatal then (afterRunFailed t).Halted else (afterRunFailed t).Looping := by
  cases fatal with
  | true => exact ⟨hb, hx, by simp [afterRunFailed, hf], ht, hp⟩
  | false => exact ⟨hb, hx, by simp [afterRunFailed, hf, hh], ht, hp⟩

/-- Settles O51: an error in either operation ends `Init` with `Fail`, and RUN does the rest. -/
theorem runAfterFailedInitHaltsOrProceeds : Obligations.RunAfterFailedInitHaltsOrProceeds := by
  constructor
  · intro s c b hc hh hs
    refine ⟨_, exec_run_failed (init_error (s := s.accept .run) (Bus.serves_last.1 hs) hc),
      afterRunFailed_rest rfl rfl rfl hh rfl rfl, ?_⟩
    rw [exchangeEvents_error hc, ← (descriptorIsFieldOfCommandWord _ _ _ _ false).1]
    simp [afterRunFailed, markInitFail, afterError, initStart, powerReq, BusReq.of, hh]
  · intro s c0 c1 b h0 h1 hh hs
    obtain ⟨hn, ha⟩ := Completion.answer_ok h0
    obtain ⟨m, hp, hw⟩ := Bus.serves_cons.1 hs
    rw [Completion.answer, hn, ha] at hp
    refine ⟨_, exec_run_failed (init_wake_error (s := s.accept .run) hp (Bus.serves_last.1 hw) h1),
      afterRunFailed_rest rfl rfl rfl hh rfl rfl, ?_⟩
    rw [exchangeEvents_ok h0, exchangeEvents_error h1, ← (descriptorIsFieldOfCommandWord _ _ _ _ false).1]
    simp [afterRunFailed, markInitFail, afterError, initSelected, afterOk, initStart, powerReq, wakeReq, BusReq.of, hh]

end Sys2Proof.Machine
end

section
/-! A cycle whose byte operations are all answered, and one that hangs (R23, R160 to R163, R172). -/

namespace Sys2Proof.Machine

/-! ### The reads of some axes in a row -/

/-- The byte operations of the reads of these axes, with their answers (R161). -/
def axesExchange (params : Params) (o : PerAxis AxisAnswers) (l : List Axis) : List (BusReq × Completion) :=
  l.flatMap fun i => (o.get i).exchange params.slaveAddr (axisAddr params i)

/-- The addresses of a cycle are 8-bit sums, taken modulo 256 or not (R62). -/
theorem axisAddr_eq_mod (params : Params) (i : Axis) :
    BitVec.ofNat 8 ((params.axisBase.toNat + 2 * i.number.toNat) % 256) = axisAddr params i :=
  BitVec.eq_of_toNat_eq (by simp [axisAddr])

theorem cycleExchange_eq (params : Params) (o : PerAxis AxisAnswers) :
    cycleExchange params o = axesExchange params o Axis.all := by
  simp only [cycleExchange, axesExchange, axisAddr_eq_mod]

theorem axesExchange_append (params : Params) (o : PerAxis AxisAnswers) (l m : List Axis) :
    axesExchange params o (l ++ m) = axesExchange params o l ++ axesExchange params o m := List.flatMap_append

/-- The read of one axis of a cycle, all but the bus environment. -/
def axisRead (o : PerAxis AxisAnswers) (s : State) (i : Axis) : State :=
  afterAxis (s.setAxi i) i (axisAddr s.params i) (o.get i) s.bus

/-- The state these reads leave, the bus environment being `b` afterwards. -/
def axesRead (o : PerAxis AxisAnswers) (s : State) (l : List Axis) (b : Bus) : State :=
  { l.foldl (axisRead o) s with bus := b }

theorem foldl_axisRead_bus (o : PerAxis AxisAnswers) (l : List Axis) (s : State) (b : Bus) :
    l.foldl (axisRead o) { s with bus := b } = { l.foldl (axisRead o) s with bus := b } := by
  induction l generalizing s with
  | nil => rfl
  | cons i rest ih => exact ih (axisRead o s i)

theorem axesRead_cons (o : PerAxis AxisAnswers) (s : State) (i : Axis) (rest : List Axis) (m b : Bus) :
    axesRead o (afterAxis (s.setAxi i) i (axisAddr s.params i) (o.get i) m) rest b = axesRead o s (i :: rest) b := by
  unfold axesRead
  rw [List.foldl_cons, show afterAxis (s.setAxi i) i (axisAddr s.params i) (o.get i) m =
    { axisRead o s i with bus := m } from rfl, foldl_axisRead_bus]

/-- The reads of these axes when every operation is answered (R161, R163). -/
theorem readAxes_answered {o : PerAxis AxisAnswers} {l : List Axis} {s : State} {b : Bus}
    (h : s.bus.Serves (asAnswers (axesExchange s.params o l)) b) :
    (readAxes l).run s = .ret () (axesRead o s l b) := by
  induction l generalizing s with
  | nil =>
    obtain rfl := Bus.serves_nil.1 h
    rfl
  | cons i rest ih =>
    rw [axesExchange, List.flatMap_cons, asAnswers_append] at h
    obtain ⟨m, hi, hrest⟩ := (Bus.serves_append _ _ _ _).1 h
    rw [readAxes_serves i rest (o.get i) s m hi, ← axesRead_cons o s i rest m]
    exact ih hrest

/-- The frame after the reads of these axes: new where a read succeeded, old elsewhere (R23, R144, R161). -/
theorem axesRead_frame (o : PerAxis AxisAnswers) (s : State) (l : List Axis) (b : Bus) (j : Axis) :
    (axesRead o s l b).f.get j = if j ∈ l then (o.get j).sample.getD (s.f.get j) else s.f.get j := by
  unfold axesRead
  dsimp only
  induction l generalizing s with
  | nil => rfl
  | cons i rest ih =>
    have one : (axisRead o s i).f.get j = if j = i then (o.get i).sample.getD (s.f.get j) else s.f.get j :=
      afterAxis_get _ _ _ _ _ _
    rw [List.foldl_cons, ih, one]
    by_cases hj : j = i
    · subst hj
      cases (o.get j).sample <;> simp
    · simp [hj]

/-- The degraded flags after them (R144, R163). -/
theorem axesRead_deg (o : PerAxis AxisAnswers) (s : State) (l : List Axis) (b : Bus) (j : Axis) :
    (axesRead o s l b).status.deg.get j = if j ∈ l then (o.get j).sample.isNone else s.status.deg.get j := by
  unfold axesRead
  dsimp only
  induction l generalizing s with
  | nil => rfl
  | cons i rest ih =>
    have one : (axisRead o s i).status.deg.get j = if j = i then (o.get i).sample.isNone else s.status.deg.get j :=
      afterAxis_deg _ _ _ _ _ _
    rw [List.foldl_cons, ih, one]
    by_cases hj : j = i
    · subst hj
      simp
    · simp [hj]

/-- The history after them: the exchanges in the order of the axes (R161). -/
theorem axesRead_events (o : PerAxis AxisAnswers) (s : State) (l : List Axis) (b : Bus) :
    (axesRead o s l b).events = s.events ++ exchangeEvents (axesExchange s.params o l) := by
  unfold axesRead
  dsimp only
  induction l generalizing s with
  | nil => simp [axesExchange]
  | cons i rest ih =>
    rw [List.foldl_cons, ih, axesExchange, axesExchange, List.flatMap_cons, exchangeEvents_append, ← List.append_assoc]
    rfl

theorem Axis.mem_all (i : Axis) : i ∈ Axis.all := by cases i <;> decide

/-! ### CYCLE (R160 to R163) -/

/-- What CYCLE leaves once its reads have left `u` (R160 to R162). -/
def cycleEnd (u : State) : State :=
  { u with
    p := u.f.accel
    cls := { orient := orientResult u.params u.f.accel
             impact := impactFlags u.params u.f.accel u.p
             lamp := (orientResult u.params u.f.accel).lamp }
    status := { u.status with busy := false, fail := u.status.degraded }
    seq := { u.seq with top := .none }
    events := u.events
      ++ classifyEvents u.params (impactFlags u.params u.f.accel u.p) (orientResult u.params u.f.accel)
      ++ [.report (reportLine u.params.reportSet u.f), .delay u.params.cycleDelay] }

theorem exec_cycle_answered {o : PerAxis AxisAnswers} {s : State} {b : Bus}
    (h : s.bus.Serves (asAnswers (cycleExchange s.params o)) b) :
    exec .cycle s = .next (cycleEnd (axesRead o (s.accept .cycle) Axis.all b)) := by
  rw [cycleExchange_eq] at h
  rw [exec_eq_program]
  show Host.Outcome.next (progCycle.run s).final = _
  rw [progCycle, Prog.run_act, cycle, Prog.run_seq, Prog.run_seq, readAxes_answered (s := s.accept .cycle) h,
    Proc.andThen_ret, afterReads_run]
  rfl

theorem degraded_eq_any (t : Status) : t.degraded = Axis.all.any t.deg.get := by
  simp [Status.degraded, Axis.all, PerAxis.get, Bool.or_assoc]

/-- The frame after all six reads. -/
theorem axesRead_all_frame (o : PerAxis AxisAnswers) (s : State) (b : Bus) (i : Axis) :
    (axesRead o s Axis.all b).f.get i = (o.get i).sample.getD (s.f.get i) := by
  rw [axesRead_frame, if_pos i.mem_all]

/-- The degraded flags after all six reads. -/
theorem axesRead_all_deg (o : PerAxis AxisAnswers) (s : State) (b : Bus) (i : Axis) :
    (axesRead o s Axis.all b).status.deg.get i = (o.get i).sample.isNone := by
  rw [axesRead_deg, if_pos i.mem_all]

/-- Settles O47: six reads, one after the other, then what CYCLE does with the frame they leave. -/
theorem cycleReadsClassifiesReportsAndDelays : Obligations.CycleReadsClassifiesReportsAndDelays := by
  intro s o b h
  have events := axesRead_events o (s.accept .cycle) Axis.all b
  refine ⟨_, exec_cycle_answered h, axesRead_all_frame o (s.accept .cycle) b,
    axesRead_all_deg o (s.accept .cycle) b, ?_, rfl, rfl, rfl, ?_, rfl, rfl⟩
  · show (axesRead o (s.accept .cycle) Axis.all b).status.degraded = _
    rw [degraded_eq_any, funext (axesRead_all_deg o (s.accept .cycle) b)]
  · rw [cycleExchange_eq]
    show (axesRead o (s.accept .cycle) Axis.all b).events ++ _ ++ _ = _
    rw [events]
    rfl

/-! ### A cycle that hangs (R172) -/

/-- Where the reads of these axes never return, `AXI` names one of them; it and those after it are as they were. -/
def HangKeeps (s : State) (l : List Axis) (t : State) : Prop :=
  t.seq.axi ∈ l ∧ ∀ j : Axis, t.seq.axi.number.toNat ≤ j.number.toNat →
    t.f.get j = s.f.get j ∧ t.status.deg.get j = s.status.deg.get j

theorem readAxes_hangKeeps {l : List Axis} (hl : l.Pairwise fun i j => i.number.toNat < j.number.toNat) (s : State) :
    ((readAxes l).run s).Post (fun _ => True) (HangKeeps s l) := by
  induction l generalizing s with
  | nil => exact trivial
  | cons i rest ih =>
    have one := rdAx_frame i (axisAddr s.params i) (s.setAxi i)
    rw [readAxes_cons_run]
    cases hr : (rdAx i (axisAddr s.params i)).run (s.setAxi i) with
    | never t =>
      rw [hr] at one
      obtain ⟨-, -, haxi, -, -, hf, hdeg⟩ := one
      exact ⟨by rw [haxi]; exact List.mem_cons_self, fun j _ => ⟨by rw [hf]; rfl, by rw [hdeg]; rfl⟩⟩
    | ret v u =>
      rw [hr] at one
      obtain ⟨-, -, -, -, -, others⟩ := one
      obtain ⟨hi, hrest⟩ := List.pairwise_cons.1 hl
      have later := ih hrest u
      rw [Proc.andThen_ret]
      cases hk : (readAxes rest).run u with
      | ret => exact trivial
      | never t =>
        rw [hk] at later
        obtain ⟨hmem, hkeep⟩ := later
        refine ⟨List.mem_cons_of_mem _ hmem, fun j hj => ?_⟩
        have hne : j ≠ i := by
          rintro rfl
          exact absurd (hi _ hmem) (by omega)
        obtain ⟨hf, hdeg⟩ := hkeep j hj
        obtain ⟨hf', hdeg'⟩ := others j hne
        exact ⟨hf.trans hf', hdeg.trans hdeg'⟩

theorem Axis.all_sorted : Axis.all.Pairwise fun i j => i.number.toNat < j.number.toNat := by decide

/-- A cycle that never returns has stopped in its reads: nothing is classified, no later axis read. -/
theorem cycle_hang {s t : State} (h : cycle.run s = .never t) :
    BusWork s t ∧ AtWait t ∧ HangKeeps s Axis.all t := by
  have frame := readAxes_frame Axis.all s (.inl (List.cons_ne_nil _ _))
  have keeps := readAxes_hangKeeps Axis.all_sorted s
  rw [cycle, Prog.run_seq] at h
  cases hr : (readAxes Axis.all).run s with
  | ret v u =>
    rw [hr, Proc.andThen_ret, afterReads_run] at h
    cases h
  | never u =>
    rw [hr] at h frame keeps
    cases h
    obtain ⟨hw, hwait, -⟩ := frame
    exact ⟨hw, hwait, keeps⟩

/-- Settles O48: CYCLE ends busy only where its `Cycle()` never returns. -/
theorem hungCycleStopsWhereItHangs : Obligations.HungCycleStopsWhereItHangs := by
  intro s t h hbusy
  rw [exec_eq_program] at h
  change Host.Outcome.next (progCycle.run s).final = _ at h
  rw [progCycle, Prog.run_act, Prog.run_seq] at h
  cases hr : cycle.run (s.accept .cycle) with
  | ret v u =>
    rw [hr] at h
    cases h
    cases hbusy
  | never u =>
    rw [hr] at h
    cases h
    obtain ⟨hw, hwait, -, hkeep⟩ := cycle_hang hr
    exact ⟨hwait.xbusy, hw.top, hwait.phase, hw.cls, hw.p, hw.fail, hkeep, hw.history⟩

end Sys2Proof.Machine
end

section
/-! The host inside a command or a cycle (R23, R28, R36 to R39, R240, R256): what a point inside shows, and that acts
there leave the command alone but for a reset. -/

namespace Sys2Proof.Machine

/-! ### One act inside the work of a step -/

/-- No act inside: the work to its end. -/
theorem step_during_nil (s : State) (word : Option Word) (rest : List HostAction) :
    step { s with host := .during word [] :: rest } = .next ((s.work word).run { s with host := rest }).final := rfl

/-- A write inside is lost (R39). -/
theorem step_during_write (s : State) (word : Option Word) (k : Nat) (n : BitVec 8) (w : Word)
    (rest : List HostAction) :
    step { s with host := .during word [(k, .write n w)] :: rest } =
      .next ((s.work word).run { s with host := rest }).final := by
  rw [step_act]
  show Host.Outcome.next (interrupted (s.work word) 1 [(k, .write n w)] { s with host := rest }) = _
  unfold interrupted
  cases (s.work word).point (1 + k) { s with host := rest } <;> rfl

/-- A read inside appends the register as it stands there (R38). -/
theorem step_during_read {s : State} {word : Option Word} {k : Nat} {rest : List HostAction} {t : State}
    (h : (s.work word).point (1 + k) { s with host := rest } = some t) (n : BitVec 8) :
    step { s with host := .during word [(k, .read n)] :: rest } =
      .next ((s.work word).run { s with host := rest, portOut := s.portOut ++ [t.portRead n] }).final := by
  rw [step_act]
  show Host.Outcome.next (interrupted (s.work word) 1 [(k, .read n)] { s with host := rest }) = _
  unfold interrupted
  rw [h]
  rfl

/-- A reset inside abandons the work where it stands (R240). -/
theorem step_during_reset {s : State} {word : Option Word} {k : Nat} {rest : List HostAction} {t : State}
    (h : (s.work word).point (1 + k) { s with host := rest } = some t) :
    step { s with host := .during word [(k, .reset)] :: rest } = .next t.applyReset := by
  rw [step_act]
  show Host.Outcome.next (interrupted (s.work word) 1 [(k, .reset)] { s with host := rest }) = _
  unfold interrupted
  rw [h]

/-- The work of a step for a word that decodes is the command's lines. -/
theorem work_of_decode {s : State} {w : Word} {i : Instr} (hb : s.status.busy = false) (hd : decode w = .ok i) :
    s.work (some w) = program i := by
  simp [State.work, hb, hd]

theorem work_of_looping {s : State} (h : s.Looping) : s.work none = cycle := by
  simp [State.work, State.ownWork, h.inLoop]

/-- Settles O55: at the point of the reset the host's side is as it was, and reset keeps the bus of that point. -/
theorem resetInsideACommandAbandonsIt : Obligations.ResetInsideACommandAbandonsIt := by
  refine ⟨fun s word k rest t h => ?_, fun s w i hb hd => work_of_decode hb hd, fun s hl => work_of_looping hl⟩
  obtain ⟨hparams, hhost, hport⟩ :=
    (work_keeps (ofHostSide_same { s with host := rest }) s word).point ⟨rfl, rfl, rfl⟩ h
  obtain ⟨hstatus, hcls, hseq⟩ := reset_words_zero
  exact ⟨_, step_during_reset h, resetWith_idle _ _ _ _, fun i => by cases i <;> rfl, fun i => by cases i <;> rfl, rfl,
    rfl, hstatus, hcls, hseq, rfl, hparams, rfl, hhost, hport⟩

/-- No work of a step reads or writes the words the port has returned (R38). -/
theorem work_ignores (h : List Word → List Word) (s : State) (word : Option Word) :
    (s.work word).Ignores (State.withPort h) := by
  rcases work_cases s word with hw | ⟨-, hw⟩ | ⟨-, i, hw⟩ | ⟨-, hw⟩ <;> rw [hw]
  · exact .ret _ _
  · exact .act (fun _ => rfl) (.ret _ _)
  · exact program_ignores h i
  · exact cycle_ignores id h

/-- Settles O56: writes are lost, reads show the point and change nothing else, and `BUSY` is 1 at every point after
acceptance. -/
theorem hostActsInsideACommandLeaveItAlone : Obligations.HostActsInsideACommandLeaveItAlone := by
  refine ⟨fun s w rest => ⟨?_, rfl⟩, fun s word k n w rest => step_during_write s word k n w rest,
    fun s word k n rest t h => ?_, fun s t i k h => ?_, fun s t k hl h => ?_⟩
  · rw [step_during_nil, step_act, hostStep_command, present_eq_work]
    rfl
  · have port := ((work_keeps (ofHostSide_same { s with host := rest }) s word).run ⟨rfl, rfl, rfl⟩).portOut
    refine ⟨_, step_during_nil s word rest, port, ?_⟩
    rw [step_during_read h]
    have same := (work_ignores (fun _ => s.portOut ++ [t.portRead n]) s word).run { s with host := rest }
    exact congrArg Host.Outcome.next ((congrArg Proc.final same).trans (Proc.map_final _ _))
  · rw [Nat.add_comm] at h
    exact program_point Unwritten.busy (fun _ => rfl) h
  · exact (cycle_keeps Unwritten.busy).point hl.1 h

/-! ### The frame inside a cycle (R23, R161, R256) -/

/-- Calls nest as they are written. -/
theorem Prog.bind_assoc {α β γ : Type} (p : Prog α) (q : α → Prog β) (r : β → Prog γ) :
    (p.bind q).bind r = p.bind fun a => (q a).bind r := by
  induction p with
  | ret a => rfl
  | act f p ih => exact congrArg (Prog.act f) ih
  | ask req p ih => exact congrArg (Prog.ask req) (funext fun n => funext fun a => funext fun b => ih n a b)
  | look p ih => exact congrArg Prog.look (funext ih)

theorem readAxes_append (l m : List Axis) : readAxes (l ++ m) = (readAxes l).seq (readAxes m) := by
  induction l with
  | nil => rfl
  | cons i rest ih =>
    refine congrArg (Prog.act _) (congrArg Prog.look (funext fun s => ?_))
    exact (congrArg (rdAx i _).seq ih).trans (Prog.bind_assoc _ _ _).symm

/-- The reads of the last axes of a cycle and what follows them have a first line. -/
theorem afterSomeReads_point (m : List Axis) (u : State) : ((readAxes m).seq afterReads).point 0 u = some u := by
  cases m <;> rfl

/-- After the reads of the first axes of CYCLE there is a point. -/
theorem cycle_point_after {s u : State} {l m : List Axis} (hlm : Axis.all = l ++ m)
    (h : (readAxes l).run (s.accept .cycle) = .ret () u) :
    ∃ k, (program .cycle).point (1 + k) s = some u := by
  have split : cycle = (readAxes l).bind fun _ => (readAxes m).seq afterReads := by
    rw [cycle, hlm, readAxes_append]
    exact Prog.bind_assoc _ _ _
  obtain ⟨k, hk⟩ := Prog.point_bind_after (fun _ => (readAxes m).seq afterReads) h (afterSomeReads_point m u)
  refine ⟨k, ?_⟩
  rw [Nat.add_comm 1 k]
  rw [← split] at hk
  exact Prog.point_bind _ hk

/-- The axes up to one of them come first in a cycle. -/
theorem Axis.all_upTo (i : Axis) :
    ∃ l m, Axis.all = l ++ m ∧ ∀ j : Axis, j ∈ l ↔ j.number ≤ i.number := by
  refine ⟨_, _, (List.take_append_drop (i.number.toNat + 1) Axis.all).symm, fun j => ?_⟩
  cases i <;> cases j <;> decide

/-- Settles O57: the point after the read of the axis, with the frame the reads so far have left. -/
theorem frameInsideACycleIsHalfOldHalfNew : Obligations.FrameInsideACycleIsHalfOldHalfNew := by
  intro s o b i h
  obtain ⟨l, m, hlm, hl⟩ := i.all_upTo
  rw [cycleExchange_eq, hlm, axesExchange_append, asAnswers_append] at h
  obtain ⟨b', hread, -⟩ := (Bus.serves_append _ _ _ _).1 h
  obtain ⟨k, hk⟩ := cycle_point_after hlm (readAxes_answered (s := s.accept .cycle) hread)
  refine ⟨k, _, hk, fun j => ?_⟩
  rw [axesRead_frame]
  simp only [hl]
  rfl

end Sys2Proof.Machine
end

section
/-! The byte pair of a sample and the register addresses a cycle transmits, as numbers (R62, R143). -/

namespace Sys2Proof.Machine

theorem toNat_unpack (hi lo : Byte) : (unpack hi lo).toNat = 256 * hi.toNat + lo.toNat := by
  rw [unpack, toNat_append_add]
  omega

/-- Settles O28: half the range of the pattern is a high byte of 0x80. -/
theorem unpackIsMostSignificantFirst : Obligations.UnpackIsMostSignificantFirst := by
  intro hi lo
  refine ⟨toNat_unpack hi lo, ?_⟩
  have hlo := lo.isLt
  rw [BitVec.toInt_eq_toNat_cond, toNat_unpack]
  split <;> split <;> omega

theorem toNat_axisAddr (params : Params) (i : Axis) :
    (axisAddr params i).toNat = (params.axisBase.toNat + 2 * i.number.toNat) % 256 := BitVec.toNat_ofNat _ _

theorem Axis.number_le (i : Axis) : i.number.toNat ≤ 5 := by cases i <;> decide

/-- Settles O46: the last address is at most 10 above the base. -/
theorem axisAddressesWrapModulo256 : Obligations.AxisAddressesWrapModulo256 := by
  intro params i
  refine ⟨toNat_axisAddr params i, fun h => ?_⟩
  have := i.number_le
  rw [toNat_axisAddr, Nat.mod_eq_of_lt (by omega)]

end Sys2Proof.Machine
end

section
/-! The optional sensor on the bus (R61, R63, R68, R69, R121, R141, R144): what the oracle gives when no scripted answer
is left and a sensor is there, and with it RDAX, INIT and a continued write. -/

namespace Sys2Proof.Machine

/-! ### The sensor's part of a byte operation (R68, R69) -/

/-- The environment is the optional sensor: no scripted answer is left. -/
structure Bus.Attached (b : Bus) (n : Sensor) : Prop where
  script : b.script = []
  sensor : b.sensor = some n

/-- A request the sensor hears gets its answer. -/
theorem Bus.Attached.answer_heard {b : Bus} {n : Sensor} (h : b.Attached n) {q : BusReq} (hq : n.hears q = true) :
    ∃ b', b.answer q = ((n.answer q).1, b') ∧ b'.Attached (n.answer q).2 := by
  obtain ⟨script, asked, sensor⟩ := b
  obtain ⟨rfl, rfl⟩ := h
  exact ⟨⟨[], asked + 1, some (n.answer q).2⟩, by simp [Bus.answer, hq], rfl, rfl⟩

/-- A request it does not hear ends its part in the open transaction and changes nothing else of it. -/
theorem Bus.Attached.answer_unheard {b : Bus} {n : Sensor} (h : b.Attached n) {q : BusReq} (hq : n.hears q = false) :
    (b.answer q).2.Attached { n with addressed := false } := by
  obtain ⟨script, asked, sensor⟩ := b
  obtain ⟨rfl, rfl⟩ := h
  simp only [Bus.answer, hq]
  exact ⟨rfl, rfl⟩

/-- A start is heard by its slave address (R68 (1)). -/
theorem Sensor.hears_start {n : Sensor} {q : BusReq} (hq : q.start = true) (h : n.addr = q.sa) : n.hears q = true := by
  simp [Sensor.hears, hq, h]

/-- A continuation is heard by the sensor the open transaction was addressed to (R68 (1)). -/
theorem Sensor.hears_continuation (n : Sensor) {q : BusReq} (hq : q.start = false) : n.hears q = n.addressed := by
  simp [Sensor.hears, hq]

/-- After address 0xFF only, the pointer does not go to the next address (R62, R69). -/
theorem Sensor.toNat_advance {ptr : Byte} (h : ptr ≠ 0xFF) : (Sensor.advance ptr).toNat = ptr.toNat + 1 := by
  rw [Sensor.advance, if_neg h]
  bv_omega

/-! ### RDAX (R63, R69, R144) -/

/-- The three operations of `RdAx` addressed to the sensor: the cell at `reg`, then the next one. -/
theorem Bus.Attached.serves_rdAx {b : Bus} {n : Sensor} (h : b.Attached n) {reg : Byte} (hreg : reg ≠ 0xFF) :
    ∃ b', b.Serves [(selectReq n.addr reg, .complete false false 0),
      (highReq n.addr, .complete false false (n.cells.read reg.toNat)),
      (lowReq n.addr, .complete false false (n.cells.read (reg.toNat + 1)))] b' := by
  obtain ⟨b₁, ha₁, h₁⟩ := h.answer_heard (q := selectReq n.addr reg) (Sensor.hears_start rfl rfl)
  obtain ⟨b₂, ha₂, h₂⟩ := h₁.answer_heard (q := highReq n.addr) (Sensor.hears_start rfl rfl)
  obtain ⟨b₃, ha₃, -⟩ := h₂.answer_heard (q := lowReq n.addr) (Sensor.hears_continuation _ rfl)
  rw [← Sensor.toNat_advance hreg]
  exact ⟨b₃, Bus.serves_cons.2 ⟨b₁, ha₁, Bus.serves_cons.2 ⟨b₂, ha₂, Bus.serves_last.2 ha₃⟩⟩⟩

/-- The three answers of a read that succeeds. -/
def AxisAnswers.ofBytes (c hi lo : Byte) : AxisAnswers :=
  ⟨⟨false, false, c⟩, ⟨false, false, hi⟩, ⟨false, false, lo⟩⟩

/-- RDAX when its three operations succeed: what its one read leaves, then the outcome and the end (R142, R144). -/
theorem exec_rdax_ok {s : State} {i : Axis} {reg c hi lo : Byte} {b : Bus}
    (h : s.bus.Serves [(selectReq s.params.slaveAddr reg, .complete false false c),
      (highReq s.params.slaveAddr, .complete false false hi),
      (lowReq s.params.slaveAddr, .complete false false lo)] b) :
    exec (.rdax i.number reg) s =
      .next ((afterAxis (s.accept .rdax) i reg (.ofBytes c hi lo) b).setFail false).finish := by
  rw [exec_eq_program, program_rdax_number, progDriver, Prog.run_act, Prog.run_bind,
    rdAx_serves i reg (.ofBytes c hi lo) (s.accept .rdax) b h]
  rfl

/-- Settles O36: the sensor serves the three operations, and RDAX stores the two bytes received. -/
theorem rdaxReadsTwoConsecutiveCells : Obligations.RdaxReadsTwoConsecutiveCells := by
  intro s n i reg hscript hsensor haddr hreg
  obtain ⟨b, hb⟩ := Bus.Attached.serves_rdAx ⟨hscript, hsensor⟩ hreg
  rw [haddr] at hb
  exact ⟨_, exec_rdax_ok hb, rfl, rfl⟩

/-! ### INIT (R61, R141) -/

/-- The two operations of `Init` addressed to the sensor: the pointer is set, then the wake value goes through it. -/
theorem Bus.Attached.serves_init {b : Bus} {n : Sensor} (h : b.Attached n) {params : Params}
    (haddr : n.addr = params.slaveAddr) :
    ∃ b' m, b.Serves [(powerReq params, .complete false false 0), (wakeReq params, .complete false false 0)] b' ∧
      b'.Attached m ∧ m.cells = n.cells.write params.pwrReg.toNat params.wakeVal := by
  obtain ⟨b₁, ha₁, h₁⟩ := h.answer_heard (q := powerReq params) (Sensor.hears_start rfl haddr)
  obtain ⟨b₂, ha₂, h₂⟩ := h₁.answer_heard (q := wakeReq params) (Sensor.hears_continuation _ rfl)
  exact ⟨b₂, _, Bus.serves_cons.2 ⟨b₁, ha₁, Bus.serves_last.2 ha₂⟩, h₂, rfl⟩

/-- Operation 1 of `Init` when it succeeds. -/
theorem init_wake_ok {s : State} {c r : Byte} {b b' : Bus}
    (ha : s.bus.answer (powerReq s.params) = (.complete false false c, b))
    (hb : b.answer (wakeReq s.params) = (.complete false false r, b')) :
    init.run s = .ret .ok (markInitOk (afterOk (initSelected s c b) (wakeReq s.params) r b')) := by
  rw [init_selected ha, initWake_run]
  erw [xfer_ok (s := initSelected s c b) (by rfl) hb]
  rfl

/-- INIT when both its operations succeed (R140, R141). -/
theorem exec_init_ok {s : State} {c r : Byte} {b : Bus}
    (h : s.bus.Serves [(powerReq s.params, .complete false false c), (wakeReq s.params, .complete false false r)] b) :
    ∃ b₁, exec .init s = .next
      ((markInitOk (afterOk (initSelected (s.accept .init) c b₁) (wakeReq s.params) r b)).setFail false).finish := by
  obtain ⟨b₁, ha, hb⟩ := Bus.serves_cons.1 h
  refine ⟨b₁, ?_⟩
  rw [exec_eq_program]
  show Host.Outcome.next (progInit.run s).final = _
  rw [progInit, progDriver, Prog.run_act, Prog.run_bind,
    init_wake_ok (s := s.accept .init) ha (Bus.serves_last.1 hb)]
  rfl

/-- Settles O59: the sensor serves both operations, and the second is a store at the pointer the first has set. -/
theorem initStoresTheWakeValueInTheSensor : Obligations.InitStoresTheWakeValueInTheSensor := by
  intro s n hscript hsensor haddr hwf
  obtain ⟨b, m, hb, hm, hcells⟩ := Bus.Attached.serves_init ⟨hscript, hsensor⟩ haddr
  obtain ⟨b₁, hexec⟩ := exec_init_ok hb
  refine ⟨_, m, hexec, rfl, hm.sensor, ?_, fun a => ?_⟩ <;> rw [hcells]
  · exact Memory.write_wf hwf s.params.pwrReg.isLt _
  · exact Memory.read_write hwf _ a _

/-! ### A continued write (R68, R121) -/

/-- The environment after a byte operation, however it ends: the oracle has been asked once (R120, R123). -/
theorem xfer_bus {s : State} {dir : Dir} {start : Bool} (h : s.status.mayTransfer dir start = true) (sa : SlaveAddr)
    (data : Byte) (stop ack : Bool) :
    ((xfer sa dir data start stop ack).run s).final.bus =
      (s.bus.answer (BusReq.of sa dir data start stop ack)).2 := by
  rcases xfer_cases sa dir data start stop ack s with
    ⟨hr, -⟩ | ⟨-, b, ha, hx⟩ | ⟨-, nack, arb, r, b, -, ha, hx⟩ | ⟨-, r, b, ha, hx⟩
  · rw [h] at hr; cases hr
  all_goals rw [hx, ha]; rfl

/-- The same for WRB and RDB (R124, R125). -/
theorem progXfer_bus {s : State} {dir : Dir} {start : Bool} (h : s.status.mayTransfer dir start = true)
    (sa : SlaveAddr) (data : Byte) (stop ack : Bool) :
    ((progXfer sa dir data start stop ack).run s).final.bus =
      (s.bus.answer (BusReq.of sa dir data start stop ack)).2 :=
  Prog.final_bind (s := (s.accept .xfer).setStep .op0)
    (Q := fun t => t.bus = (s.bus.answer (BusReq.of sa dir data start stop ack)).2)
    (Proc.post_of_final (xfer_bus (s := (s.accept .xfer).setStep .op0) h sa data stop ack))
    (fun _ _ ht => ht) (fun _ ht => ht)

/-- A further write byte, asked of the sensor or of another slave: it is stored through the pointer, or reaches no
cell (R68). -/
theorem Bus.Attached.answer_continuedWrite {b : Bus} {n : Sensor} (h : b.Attached n) (hwf : n.cells.wf = true)
    (sa : SlaveAddr) (data : Byte) (stop : Bool) :
    ∃ m, (b.answer (BusReq.of sa .write data false stop false)).2.Attached m ∧ m.addr = n.addr ∧ m.ptr = n.ptr ∧
      ∀ a, m.cells.read a = if n.addressed = true ∧ a = n.ptr.toNat then data else n.cells.read a := by
  have hears := n.hears_continuation (q := BusReq.of sa .write data false stop false) rfl
  cases hn : n.addressed with
  | true =>
    obtain ⟨b', ha, hb'⟩ := h.answer_heard (hears.trans hn)
    rw [ha]
    refine ⟨_, hb', rfl, rfl, fun a => ?_⟩
    simp only [true_and]
    exact Memory.read_write hwf n.ptr.toNat a data
  | false => exact ⟨_, h.answer_unheard (hears.trans hn), rfl, rfl, fun a => by simp⟩

/-- Settles O60: whatever WRB's own slave address, the oracle is asked once, in the open transaction. -/
theorem continuationJoinsTheOpenTransaction : Obligations.ContinuationJoinsTheOpenTransaction := by
  intro s n sa data stop hscript hsensor hwf hheld hdir
  obtain ⟨m, hm, haddr, hptr, hread⟩ :=
    Bus.Attached.answer_continuedWrite ⟨hscript, hsensor⟩ hwf sa data stop
  rw [← progXfer_bus ((mayTransfer_eq_true_iff _ _ _).2 (.inr ⟨hheld, hdir⟩)) sa data stop false] at hm
  exact ⟨_, m, exec_eq_program _ s, hm.sensor, haddr, hptr, hread⟩

end Sys2Proof.Machine
end

section
/-! Command words and instructions (R90 to R98): a word is a format's exactly when its fields say so; the decoder gives
exactly the well-formed instructions, each for the word that encodes it; the masks and the refusals follow. -/

namespace Sys2Proof.Machine

/-! ### The words of the three formats, by their fields (R91 to R93) -/

/-- A Format N word is an opcode and nothing else. -/
theorem eq_formatN_iff {w : Word} {op : BitVec 4} : w = formatN op ↔ Field.op w = op ∧ Field.operandN w = 0#28 := by
  rw [← BitVec.toNat_inj, toNat_formatN, Field.op, Field.operandN, extract_eq_iff, extract_eq_iff, BitVec.toNat_ofNat]
  have hw := w.isLt
  have hop := op.isLt
  omega

theorem eq_formatT_iff {w : Word} {ack stop start run : Bool} {sa : SlaveAddr} {dir : Bool} {data : Byte} :
    w = formatT ack stop start run sa dir data ↔
      Field.op w = 1#4 ∧ Field.low w = 0#8 ∧ Field.run w = run ∧ Field.dir w = dir ∧ Field.ack w = ack ∧
        Field.data w = data ∧ Field.sa w = sa ∧ Field.start w = start ∧ Field.stop w = stop := by
  simp only [← BitVec.toNat_inj (x := w), toNat_formatT, Field.op, Field.low, Field.ack, Field.stop, Field.start,
    Field.run, Field.sa, Field.dir, Field.data, extract_eq_iff, getLsbD_eq_iff, BitVec.toNat_ofNat]
  have hw := w.isLt
  have hsa := sa.isLt
  have hdata := data.isLt
  have hack := ack.toNat_le
  have hstop := stop.toNat_le
  have hstart := start.toNat_le
  have hrun := run.toNat_le
  have hdir := dir.toNat_le
  omega

theorem eq_formatA_iff {w : Word} {d : BitVec 3} {reg : Byte} :
    w = formatA d reg ↔
      Field.op w = 3#4 ∧ Field.highA w = 0#9 ∧ Field.low w = 0#8 ∧ Field.axis w = d ∧ Field.data w = reg := by
  simp only [← BitVec.toNat_inj (x := w), toNat_formatA, Field.op, Field.highA, Field.low, Field.axis, Field.data,
    extract_eq_iff, BitVec.toNat_ofNat]
  have hw := w.isLt
  have hd := d.isLt
  have hreg := reg.isLt
  omega

/-! ### Encoding and decoding -/

/-- What the decoder does with a word, by its opcode (R94, R96). -/
theorem decode_cases (w : Word) :
    (Field.op w = 1#4 ∧ decode w = decodeT w) ∨ (Field.op w = 3#4 ∧ decode w = decodeA w) ∨
    (∃ i : Instr, i.wellFormed = true ∧ encode i = formatN (Field.op w) ∧
      (Field.op w = 2#4 ∨ Field.op w = 4#4 ∨ Field.op w = 5#4 ∨ Field.op w = 6#4) ∧ decode w = decodeN i w) ∨
    (¬ (1#4 ≤ Field.op w ∧ Field.op w ≤ 6#4) ∧ decode w = .error .reservedOpcode) := by
  unfold decode
  simp only [BitVec.ofNat_eq_ofNat]
  split_ifs with h1 h2 h3 h4 h5 h6
  · exact .inl ⟨h1, rfl⟩
  · exact .inr (.inr (.inl ⟨.init, rfl, by rw [h2]; rfl, .inl h2, rfl⟩))
  · exact .inr (.inl ⟨h3, rfl⟩)
  · exact .inr (.inr (.inl ⟨.clsfy, rfl, by rw [h4]; rfl, .inr (.inl h4), rfl⟩))
  · exact .inr (.inr (.inl ⟨.cycle, rfl, by rw [h5]; rfl, .inr (.inr (.inl h5)), rfl⟩))
  · exact .inr (.inr (.inl ⟨.run, rfl, by rw [h6]; rfl, .inr (.inr (.inr h6)), rfl⟩))
  · exact .inr (.inr (.inr ⟨by bv_omega, rfl⟩))

/-- A well-formed instruction is what its word decodes to. -/
theorem decode_encode {i : Instr} (h : i.wellFormed = true) : decode (encode i) = .ok i := by
  cases i with
  | wrb sa data start stop =>
    obtain ⟨hop, hlow, hrun, hdir, hack, hdata, hsa, hstart, hstop⟩ :=
      eq_formatT_iff.1 (rfl : encode (.wrb sa data start stop) = _)
    simp [decode, decodeT, *]
  | rdb sa start ack stop =>
    obtain ⟨hop, hlow, hrun, hdir, hack, hdata, hsa, hstart, hstop⟩ :=
      eq_formatT_iff.1 (rfl : encode (.rdb sa start ack stop) = _)
    simp [decode, decodeT, *]
  | rdax d reg =>
    obtain ⟨hop, hhigh, hlow, haxis, hdata⟩ := eq_formatA_iff.1 (rfl : encode (.rdax d reg) = _)
    simpa [decode, decodeA, *, Instr.wellFormed] using h
  | fstop => decide
  | init => decide
  | clsfy => decide
  | cycle => decide
  | run => decide

theorem encode_of_decodeT {w : Word} {i : Instr} (hop : Field.op w = 1#4) (h : decodeT w = .ok i) :
    i.wellFormed = true ∧ encode i = w := by
  unfold decodeT at h
  split_ifs at h with hlow hwrb hrdb hfstop <;> cases h
  · simp only [Bool.and_eq_true, Bool.not_eq_true'] at hwrb
    obtain ⟨⟨hrun, hdir⟩, hack⟩ := hwrb
    exact ⟨rfl, (eq_formatT_iff.2 ⟨hop, not_not.1 hlow, hrun, hdir, hack, rfl, rfl, rfl, rfl⟩).symm⟩
  · simp only [Bool.and_eq_true, beq_iff_eq] at hrdb
    obtain ⟨⟨hrun, hdir⟩, hdata⟩ := hrdb
    exact ⟨rfl, (eq_formatT_iff.2 ⟨hop, not_not.1 hlow, hrun, hdir, rfl, hdata, rfl, rfl, rfl⟩).symm⟩
  · exact ⟨rfl, hfstop.symm⟩

theorem encode_of_decodeA {w : Word} {i : Instr} (hop : Field.op w = 3#4) (h : decodeA w = .ok i) :
    i.wellFormed = true ∧ encode i = w := by
  unfold decodeA at h
  split_ifs at h with hzero haxis
  cases h
  obtain ⟨hhigh, hlow⟩ := not_or.1 hzero
  exact ⟨decide_eq_true (BitVec.not_lt.1 haxis),
    (eq_formatA_iff.2 ⟨hop, not_not.1 hhigh, not_not.1 hlow, rfl, rfl⟩).symm⟩

theorem encode_of_decodeN {w : Word} {i j : Instr} (hi : i.wellFormed = true) (hw : encode i = formatN (Field.op w))
    (h : decodeN i w = .ok j) : j.wellFormed = true ∧ encode j = w := by
  unfold decodeN at h
  split_ifs at h with hzero
  cases h
  exact ⟨hi, hw.trans (eq_formatN_iff.2 ⟨rfl, hzero⟩).symm⟩

/-- What a word decodes to is well-formed, and the word is its encoding. -/
theorem encode_of_decode {w : Word} {i : Instr} (h : decode w = .ok i) : i.wellFormed = true ∧ encode i = w := by
  rcases decode_cases w with ⟨hop, hd⟩ | ⟨hop, hd⟩ | ⟨j, hj, hw, -, hd⟩ | ⟨-, hd⟩ <;> rw [hd] at h
  · exact encode_of_decodeT hop h
  · exact encode_of_decodeA hop h
  · exact encode_of_decodeN hj hw h
  · cases h

/-- Settles O7: the fields of each format's word are the operands it was made of. -/
theorem encodedInstructionDecodesBack : Obligations.EncodedInstructionDecodesBack := fun _ => decode_encode

/-- Settles O8: the decoder's tests leave no bit of the word free but the operands it returns. -/
theorem decodedWordIsItsEncoding : Obligations.DecodedWordIsItsEncoding := fun _ _ => encode_of_decode

theorem decode_eq_ok_iff {w : Word} {i : Instr} : decode w = .ok i ↔ i.wellFormed = true ∧ w = encode i :=
  ⟨fun h => ⟨(encode_of_decode h).1, (encode_of_decode h).2.symm⟩, fun ⟨h, hw⟩ => hw ▸ decode_encode h⟩

/-! ### Masks and matches (R95) -/

/-- A field all of whose bits are in the mask. -/
theorem extract_and_of_ones {n start len : Nat} {m : BitVec n} (h : m.extractLsb' start len = BitVec.allOnes len)
    (x : BitVec n) : (x &&& m).extractLsb' start len = x.extractLsb' start len := by
  rw [BitVec.extractLsb'_and, h, BitVec.and_allOnes]

/-- A field none of whose bits is in the mask. -/
theorem extract_and_of_zero {n start len : Nat} {m : BitVec n} (h : m.extractLsb' start len = 0#len)
    (x : BitVec n) : (x &&& m).extractLsb' start len = 0#len := by
  rw [BitVec.extractLsb'_and, h, BitVec.and_zero]

theorem and_maskWrb_iff {w : Word} : w &&& 0xF90100FF#32 = 0x11000000#32 ↔
    Field.op w = 1#4 ∧ Field.low w = 0#8 ∧ Field.run w = true ∧ Field.dir w = false ∧ Field.ack w = false := by
  rw [show 0x11000000#32 = formatT false false false true 0 false 0 by decide, eq_formatT_iff]
  simp [Field.op, Field.low, Field.ack, Field.stop, Field.start, Field.run, Field.sa, Field.dir, Field.data,
    extract_and_of_ones, extract_and_of_zero]

theorem and_maskRdb_iff {w : Word} : w &&& 0xF101FFFF#32 = 0x11010000#32 ↔
    Field.op w = 1#4 ∧ Field.low w = 0#8 ∧ Field.run w = true ∧ Field.dir w = true ∧ Field.data w = 0#8 := by
  rw [show 0x11010000#32 = formatT false false false true 0 true 0 by decide, eq_formatT_iff]
  simp [Field.op, Field.low, Field.ack, Field.stop, Field.start, Field.run, Field.sa, Field.dir, Field.data,
    extract_and_of_ones, extract_and_of_zero]

theorem and_maskRdax_iff {w : Word} : w &&& 0xFFF800FF#32 = 0x30000000#32 ↔
    Field.op w = 3#4 ∧ Field.highA w = 0#9 ∧ Field.low w = 0#8 := by
  rw [show 0x30000000#32 = formatA 0 0 by decide, eq_formatA_iff]
  simp [Field.op, Field.low, Field.highA, Field.axis, Field.data, extract_and_of_ones, extract_and_of_zero]

/-- The words of WRB: what its operands can be is free. -/
theorem decode_wrb_iff {w : Word} :
    (∃ sa data start stop, decode w = .ok (.wrb sa data start stop)) ↔ w &&& 0xF90100FF#32 = 0x11000000#32 := by
  simp [and_maskWrb_iff, decode_eq_ok_iff, Instr.wellFormed, encode, eq_formatT_iff]

theorem decode_rdb_iff {w : Word} :
    (∃ sa start ack stop, decode w = .ok (.rdb sa start ack stop)) ↔ w &&& 0xF101FFFF#32 = 0x11010000#32 := by
  simp [and_maskRdb_iff, decode_eq_ok_iff, Instr.wellFormed, encode, eq_formatT_iff]

theorem decode_rdax_iff {w : Word} :
    (∃ d reg, decode w = .ok (.rdax d reg)) ↔
      w &&& 0xFFF800FF#32 = 0x30000000#32 ∧ w.extractLsb' 16 3 ≤ 5#3 := by
  rw [and_maskRdax_iff, and_comm]
  simp [decode_eq_ok_iff, Instr.wellFormed, encode, eq_formatA_iff, Field.axis]

/-- Settles O9: a word decodes to the instructions it encodes, and a mask leaves out the operands of its mnemonic. -/
theorem masksAndMatchesTellTheMnemonics : Obligations.MasksAndMatchesTellTheMnemonics := by
  have single : ∀ {w v : Word} {i : Instr}, i.wellFormed = true → encode i = v → (decode w = .ok i ↔ w = v) := by
    rintro w _ i hi rfl
    simp [decode_eq_ok_iff, hi]
  exact fun w => ⟨decode_wrb_iff, decode_rdb_iff, single rfl (by decide), single rfl (by decide), decode_rdax_iff,
    single rfl (by decide), single rfl (by decide), single rfl (by decide)⟩

/-! ### Refusals (R96) -/

theorem decodeN_eq_error_iff {w : Word} {i : Instr} {e : DecodeError} :
    decodeN i w = .error e ↔ .nonzeroReservedBits = e ∧ Field.operandN w ≠ 0#28 := by
  unfold decodeN
  split_ifs with h <;> simp_all

theorem decodeA_eq_error_iff {w : Word} {e : DecodeError} :
    decodeA w = .error e ↔
      (.nonzeroReservedBits = e ∧ (Field.highA w ≠ 0#9 ∨ Field.low w ≠ 0#8)) ∨
      (.noSuchAxis = e ∧ Field.highA w = 0#9 ∧ Field.low w = 0#8 ∧ 5#3 < Field.axis w) := by
  unfold decodeA
  split_ifs with hzero haxis
  · have zeros : ¬ (Field.highA w = 0#9 ∧ Field.low w = 0#8) := not_and_or.2 hzero
    simp_all
  · simp_all
  · simp_all

/-- Past test (2), test (3) tries the three mnemonics of `OP` = 1 by their masks. -/
theorem decodeT_eq {w : Word} (hop : Field.op w = 1#4) (hlow : Field.low w = 0#8) :
    decodeT w =
      if w &&& 0xF90100FF#32 = 0x11000000#32 then
        .ok (.wrb (Field.sa w) (Field.data w) (Field.start w) (Field.stop w))
      else if w &&& 0xF101FFFF#32 = 0x11010000#32 then
        .ok (.rdb (Field.sa w) (Field.start w) (Field.ack w) (Field.stop w))
      else if w = 0x14000000#32 then .ok .fstop
      else .error .noTransferForm := by
  simp [decodeT, hop, hlow, and_maskWrb_iff, and_maskRdb_iff, and_assoc]

theorem decodeT_eq_error_iff {w : Word} (hop : Field.op w = 1#4) {e : DecodeError} :
    decodeT w = .error e ↔
      (.nonzeroReservedBits = e ∧ Field.low w ≠ 0#8) ∨
      (.noTransferForm = e ∧ Field.low w = 0#8 ∧ w &&& 0xF90100FF#32 ≠ 0x11000000#32 ∧
        w &&& 0xF101FFFF#32 ≠ 0x11010000#32 ∧ w ≠ 0x14000000#32) := by
  by_cases hlow : Field.low w = 0#8
  · rw [decodeT_eq hop hlow]
    split_ifs <;> simp_all
  · simp [decodeT, hlow]

/-- Settles O10: the opcode says which tests are made, and the first that fails says which error. -/
theorem firstFailingTestNamesTheRefusal : Obligations.FirstFailingTestNamesTheRefusal := by
  intro w
  change (decode w = _ ↔ ¬ (1#4 ≤ Field.op w ∧ Field.op w ≤ 6#4)) ∧
    (decode w = _ ↔ (Field.op w = 1#4 ∧ Field.low w ≠ 0#8) ∨
      (Field.op w = 3#4 ∧ (Field.highA w ≠ 0#9 ∨ Field.low w ≠ 0#8)) ∨
      ((Field.op w = 2#4 ∨ Field.op w = 4#4 ∨ Field.op w = 5#4 ∨ Field.op w = 6#4) ∧ Field.operandN w ≠ 0#28)) ∧
    (decode w = _ ↔ Field.op w = 3#4 ∧ Field.highA w = 0#9 ∧ Field.low w = 0#8 ∧ 5#3 < Field.axis w) ∧
    (decode w = _ ↔ Field.op w = 1#4 ∧ Field.low w = 0#8 ∧ _)
  rcases decode_cases w with ⟨hop, hd⟩ | ⟨hop, hd⟩ | ⟨i, -, -, hop, hd⟩ | ⟨hop, hd⟩ <;> rw [hd]
  · simp [decodeT_eq_error_iff hop, hop]
  · simp [decodeA_eq_error_iff, hop]
  · rcases hop with hop | hop | hop | hop <;> simp [decodeN_eq_error_iff, hop]
  · have unnamed : ∀ o, 1#4 ≤ o → o ≤ 6#4 → Field.op w ≠ o := fun o h1 h6 ho => hop (ho ▸ ⟨h1, h6⟩)
    simp [hop, unnamed]

/-- Settles O11: the words of the specification, each evaluated. -/
theorem workedEncodingsDecode : Obligations.WorkedEncodingsDecode := by
  unfold Obligations.WorkedEncodingsDecode
  decide

end Sys2Proof.Machine
end

section
/-! What illegal words do, the commands that contract calls expand to, and the axis read composed of three commands
(R96, R101, R102, R121, R144, R214). -/

namespace Sys2Proof.Machine

/-! ### Illegal words (R96, R97, R214) -/

theorem present_of_error {w : Word} {s : State} {e : DecodeError} (hb : s.status.busy = false)
    (hd : decode w = .error e) : present w s = .next (s.raise .illegalCommand) := by
  simp [present, hb, hd]

/-- Settles O15: an illegal word and a `D` that names no axis both raise IllegalCommand and do nothing else. -/
theorem illegalCommandSetsIllAndFail : Obligations.IllegalCommandSetsIllAndFail := by
  refine ⟨fun s w rest e hb hd => ?_, fun s d reg hd => ?_⟩
  · rw [step_act, hostStep_command, present_of_error (by exact hb) hd, State.raise_eq]
  · have unnamed : Axis.ofNumber d = none := (Axis.ofNumber_none_iff d).2 (BitVec.not_le.2 hd)
    show Host.Outcome.next ((progRdax d reg).run s).final = _
    rw [progRdax, unnamed]
    rfl

/-! ### Contract calls (R101, R102, R121, R148) -/

/-- The start that R102 chooses makes the operation legal, whatever is open. -/
theorem mayTransfer_needsStart (t : Status) (dir : Dir) :
    t.mayTransfer dir (needsStart (if t.held then some t.hdir else none) dir) = true := by
  rw [mayTransfer_eq_true_iff]
  cases t.held with
  | false => exact .inl rfl
  | true =>
    by_cases h : t.hdir = dir
    · exact .inr ⟨rfl, h⟩
    · exact .inl (bne_iff_ne.2 h)

/-- A legal byte operation leaves `SEQF` alone, however it ends. -/
theorem xfer_seqf {s : State} {dir : Dir} {start : Bool} (h : s.status.mayTransfer dir start = true)
    (sa : SlaveAddr) (data : Byte) (stop ack : Bool) :
    ((xfer sa dir data start stop ack).run s).final.status.seqf = s.status.seqf := by
  rcases xfer_cases sa dir data start stop ack s with
    ⟨hr, -⟩ | ⟨-, b, -, hx⟩ | ⟨-, nack, arb, r, b, -, -, hx⟩ | ⟨-, r, b, -, hx⟩
  · rw [h] at hr; cases hr
  all_goals rw [hx]; rfl

/-- So does WRB or RDB made of it (R124, R125). -/
theorem progXfer_seqf {s : State} {dir : Dir} {start : Bool} (h : s.status.mayTransfer dir start = true)
    (sa : SlaveAddr) (data : Byte) (stop ack : Bool) :
    ((progXfer sa dir data start stop ack).run s).final.status.seqf = s.status.seqf :=
  Prog.final_bind (s := (s.accept .xfer).setStep .op0) (Q := fun t => t.status.seqf = s.status.seqf)
    (Proc.post_of_final (xfer_seqf (s := (s.accept .xfer).setStep .op0) h sa data stop ack))
    (fun _ _ ht => ht) (fun _ ht => ht)

/-- A driver command keeps `SEQF` when its sequence does, returned or waiting (R140, R142). -/
theorem progDriver_seqf {op : Top} {p : Prog Verdict} {s : State} {R N : State → Prop}
    (hp : (p.run (s.accept op)).Post R N) (hR : ∀ t, R t → t.status.seqf = s.status.seqf)
    (hN : ∀ t, N t → t.status.seqf = s.status.seqf) :
    ((progDriver op p).run s).final.status.seqf = s.status.seqf :=
  Prog.final_bind (s := s.accept op) (Q := fun t => t.status.seqf = s.status.seqf) hp (fun _ t ht => hR t ht) hN

theorem progInit_seqf (s : State) : (progInit.run s).final.status.seqf = s.status.seqf :=
  progDriver_seqf (init_frame _) (fun _ ⟨work, _⟩ => work.seqf) (fun _ ⟨work, _⟩ => work.seqf)

theorem progRdax_seqf (d : BitVec 3) (reg : Byte) (s : State) :
    ((progRdax d reg).run s).final.status.seqf = s.status.seqf := by
  unfold progRdax
  cases Axis.ofNumber d with
  | none => rfl
  | some i =>
    exact progDriver_seqf (rdAx_frame i reg _) (fun _ ⟨work, _⟩ => work.seqf) (fun _ ⟨work, _⟩ => work.seqf)

/-- Settles O13: byte calls carry the start they need, and driver sequences never raise the error. -/
theorem expandedCallsNeverRaiseSequenceError : Obligations.ExpandedCallsNeverRaiseSequenceError := by
  intro s t c h
  rw [exec_eq_program] at h
  cases h
  cases c with
  | writeByte sa b sendStop => exact progXfer_seqf (mayTransfer_needsStart _ _) sa b sendStop false
  | readByte sa ackContinue sendStop => exact progXfer_seqf (mayTransfer_needsStart _ _) sa 0 sendStop ackContinue
  | initializeDevice => exact progInit_seqf s
  | readAxis d reg => exact progRdax_seqf d reg s

/-! ### The read composed of three commands (R102, R144) -/

/-- The state WRB or RDB leaves when its operation completes without error (R35, R120). -/
def afterXfer (s : State) (q : BusReq) (rdata : Byte) (b : Bus) : State :=
  ((afterOk ((s.accept .xfer).setStep .op0) q rdata b).setFail false).finish

@[simp] theorem afterXfer_f (s : State) (q : BusReq) (rdata : Byte) (b : Bus) : (afterXfer s q rdata b).f = s.f := rfl
@[simp] theorem afterXfer_events (s : State) (q : BusReq) (rdata : Byte) (b : Bus) :
    (afterXfer s q rdata b).events = s.events ++ [.busReq q, .busResp false false rdata] := rfl
@[simp] theorem afterXfer_status (s : State) (q : BusReq) (rdata : Byte) (b : Bus) :
    (afterXfer s q rdata b).status =
      { s.status with
        busy := false, xbusy := false, err := false, nack := false, arblst := false, held := !q.stop, hdir := q.dir
        fail := false } := rfl

theorem progXfer_ok {s : State} {sa : SlaveAddr} {dir : Dir} {data rdata : Byte} {start stop ack : Bool} {b : Bus}
    (h : s.status.mayTransfer dir start = true)
    (ha : s.bus.answer (BusReq.of sa dir data start stop ack) = (.complete false false rdata, b)) :
    (progXfer sa dir data start stop ack).run s =
      .ret () (afterXfer s (BusReq.of sa dir data start stop ack) rdata b) := by
  unfold progXfer
  rw [Prog.run_act, Prog.run_act, Prog.run_bind, xfer_ok (s := (s.accept .xfer).setStep .op0) h ha]
  rfl

theorem exec_wrb_ok {s : State} {start : Bool} (h : s.status.mayTransfer .write start = true) {sa : SlaveAddr}
    {data rdata : Byte} {stop : Bool} {b : Bus}
    (ha : s.bus.answer (BusReq.of sa .write data start stop false) = (.complete false false rdata, b)) :
    exec (.wrb sa data start stop) s = .next (afterXfer s (BusReq.of sa .write data start stop false) rdata b) := by
  rw [exec_eq_program]
  exact congrArg (fun p => Host.Outcome.next p.final) (progXfer_ok h ha)

theorem exec_rdb_ok {s : State} {start : Bool} (h : s.status.mayTransfer .read start = true) {sa : SlaveAddr}
    {rdata : Byte} {ack stop : Bool} {b : Bus}
    (ha : s.bus.answer (BusReq.of sa .read 0 start stop ack) = (.complete false false rdata, b)) :
    exec (.rdb sa start ack stop) s = .next (afterXfer s (BusReq.of sa .read 0 start stop ack) rdata b) := by
  rw [exec_eq_program]
  exact congrArg (fun p => Host.Outcome.next p.final) (progXfer_ok h ha)

/-- The three commands of the composed read, the bus answering as it answers RDAX (R102). -/
theorem exec_composedRead {s : State} {reg c hi lo : Byte} {b₁ b₂ b : Bus}
    (hselect : s.bus.answer (selectReq s.params.slaveAddr reg) = (.complete false false c, b₁))
    (hhigh : b₁.answer (highReq s.params.slaveAddr) = (.complete false false hi, b₂))
    (hlow : b₂.answer (lowReq s.params.slaveAddr) = (.complete false false lo, b)) :
    ∃ u v, u = afterXfer s (selectReq s.params.slaveAddr reg) c b₁ ∧
      v = afterXfer u (highReq s.params.slaveAddr) hi b₂ ∧
      exec (.wrb s.params.slaveAddr reg true false) s = .next u ∧
      exec (.rdb s.params.slaveAddr true true false) u = .next v ∧
      exec (.rdb s.params.slaveAddr false false true) v =
        .next (afterXfer v (lowReq s.params.slaveAddr) lo b) :=
  ⟨_, _, rfl, rfl, exec_wrb_ok (by rfl) (by exact hselect), exec_rdb_ok (by rfl) (by exact hhigh),
    exec_rdb_ok (by rfl) (by exact hlow)⟩

/-- Settles O35: the three commands are the three operations of `RdAx`, each accepted and completed on its own. -/
theorem composedReadEqualsRdaxOnTheBus : Obligations.ComposedReadEqualsRdaxOnTheBus := by
  intro s i reg c hi lo b h
  obtain ⟨b₁, hselect, h₁⟩ := Bus.serves_cons.1 h
  obtain ⟨b₂, hhigh, h₂⟩ := Bus.serves_cons.1 h₁
  obtain ⟨u, v, rfl, rfl, select, high, low⟩ := exec_composedRead hselect hhigh (Bus.serves_last.1 h₂)
  refine ⟨_, _, _, _, exec_rdax_ok h, select, high, low, ?_, rfl, rfl, rfl, ?_, rfl, ?_⟩
  · have each : (AxisAnswers.ofBytes c hi lo).exchange s.params.slaveAddr reg =
      [(selectReq s.params.slaveAddr reg, ⟨false, false, c⟩), (highReq s.params.slaveAddr, ⟨false, false, hi⟩),
        (lowReq s.params.slaveAddr, ⟨false, false, lo⟩)] := rfl
    simp [afterAxis, each, exchangeEvents_ok, Completion.isError]
  · simp only [afterXfer_status]
    rfl
  · simp

end Sys2Proof.Machine
end

section
/-! Byte operations as whole commands, completed, errored or refused, and the driver sequences that end in an error
(R35, R120, R121, R123 to R125, R127, R141, R144). -/

namespace Sys2Proof.Machine

/-! ### A command whose procedure returns (R35) -/

theorem exec_of_returns {i : Instr} {s t : State} (h : (program i).run s = .ret () t) : exec i s = .next t := by
  rw [exec_eq_program, h]
  rfl

/-- WRB and RDB: the outcome of the one operation, then the end (R124, R125). -/
theorem progXfer_returns {s t : State} {sa : SlaveAddr} {dir : Dir} {data : Byte} {start stop ack : Bool} {r : Reply}
    (h : (xfer sa dir data start stop ack).run ((s.accept .xfer).setStep .op0) = .ret r t) :
    (progXfer sa dir data start stop ack).run s = .ret () (t.setFail (r = .fail)).finish := by
  unfold progXfer
  rw [Prog.run_act, Prog.run_act, Prog.run_bind, h]
  rfl

/-- INIT and RDAX: the outcome of the sequence, then the end (R140, R142). -/
theorem progDriver_returns {op : Top} {p : Prog Verdict} {s t : State} {v : Verdict}
    (h : p.run (s.accept op) = .ret v t) :
    (progDriver op p).run s = .ret () (t.setFail (v = .fail)).finish := by
  unfold progDriver
  rw [Prog.run_act, Prog.run_bind, h]
  rfl

/-! ### WRB and RDB (R120, R121, R123) -/

/-- The state WRB or RDB leaves when its check finds no open transaction to continue (R121, R215). -/
def afterRefusedXfer (s : State) : State :=
  { s with
    status := { s.status with busy := false, seqf := true, fail := true }
    seq := { s.seq with top := .none, step := .op0 } }

theorem progXfer_refused {s : State} {dir : Dir} (h : ¬ (s.status.held = true ∧ s.status.hdir = dir)) (sa : SlaveAddr)
    (data : Byte) (stop ack : Bool) :
    (progXfer sa dir data false stop ack).run s = .ret () (afterRefusedXfer s) := by
  have refused : ((s.accept .xfer).setStep .op0).status.mayTransfer dir false = false := by
    rw [Bool.eq_false_iff, ne_eq, mayTransfer_eq_true_iff]
    rintro (hs | hopen)
    · cases hs
    · exact h hopen
  exact progXfer_returns (xfer_refused refused sa data stop ack)

/-- Settles O23: a continuation goes through the check only in its own direction, a start always. -/
theorem unmatchedContinuationRaisesSequenceError : Obligations.UnmatchedContinuationRaisesSequenceError := by
  refine ⟨fun s sa data stop h => ?_, fun s sa ack stop h => ?_, fun s t sa data stop h => ?_,
    fun s t sa ack stop h => ?_⟩
  · exact exec_of_returns (progXfer_refused h sa data stop false)
  · exact exec_of_returns (progXfer_refused h sa 0 stop ack)
  · rw [exec_eq_program] at h
    cases h
    exact progXfer_seqf (mayTransfer_start _ _) sa data stop false
  · rw [exec_eq_program] at h
    cases h
    exact progXfer_seqf (mayTransfer_start _ _) sa 0 stop ack

/-- Settles O24: what `Xfer` leaves on its success path, then `FAIL` <- 0 and the end. -/
theorem byteOperationCompletes : Obligations.ByteOperationCompletes := by
  refine ⟨fun s sa data rdata start stop b h ha => ?_, fun s sa rdata start ack stop b h ha => ?_⟩
  · rw [exec_wrb_ok ((mayTransfer_eq_true_iff _ _ _).2 h) ha, ← (descriptorIsFieldOfCommandWord _ _ _ _ false).1]
    rfl
  · rw [exec_rdb_ok ((mayTransfer_eq_true_iff _ _ _).2 h) ha, ← (descriptorIsFieldOfCommandWord _ 0 _ _ _).2]
    rfl

/-- The state WRB or RDB leaves when its operation ends in an error (R35, R120, R123). -/
def afterXferError (s : State) (q : BusReq) (nack arb : Bool) (rdata : Byte) (b : Bus) : State :=
  ((afterError ((s.accept .xfer).setStep .op0) q nack arb rdata b).setFail true).finish

theorem progXfer_error {s : State} {sa : SlaveAddr} {dir : Dir} {data rdata : Byte} {start stop ack nack arb : Bool}
    {b : Bus} (h : start = true ∨ (s.status.held = true ∧ s.status.hdir = dir)) (he : nack = true ∨ arb = true)
    (ha : s.bus.answer (BusReq.of sa dir data start stop ack) = (.complete nack arb rdata, b)) :
    (progXfer sa dir data start stop ack).run s =
      .ret () (afterXferError s (BusReq.of sa dir data start stop ack) nack arb rdata b) :=
  progXfer_returns (xfer_error (s := (s.accept .xfer).setStep .op0) ((mayTransfer_eq_true_iff _ _ _).2 h) ha
    (Bool.or_eq_true_iff.2 he))

/-- Settles O25: what `Xfer` leaves on its error path, then `FAIL` <- 1 and the end. -/
theorem erroredByteOperationForcesStop : Obligations.ErroredByteOperationForcesStop := by
  refine ⟨fun s sa data rdata start stop nack arb b h he ha => ?_,
    fun s sa rdata start ack stop nack arb b h he ha => ?_⟩
  · rw [exec_of_returns (i := .wrb sa data start stop) (progXfer_error h he ha),
      ← (descriptorIsFieldOfCommandWord _ _ _ _ false).1]
    rfl
  · rw [exec_of_returns (i := .rdb sa start ack stop) (progXfer_error h he ha),
      ← (descriptorIsFieldOfCommandWord _ 0 _ _ _).2]
    rfl

/-! ### INIT and RDAX that fail (R127, R141, R144) -/

/-- INIT once `Init` has failed in state `t`. -/
theorem exec_init_failed {s t : State} (h : init.run (s.accept .init) = .ret .fail t) :
    exec .init s = .next (t.setFail true).finish :=
  exec_of_returns (progDriver_returns h)

/-- Settles O30: the first error ends `Init`, at operation 0 or at operation 1. -/
theorem failedInitAbortsAndIsRecorded : Obligations.FailedInitAbortsAndIsRecorded := by
  refine ⟨fun s c b hc hs => ?_, fun s c0 c1 b h0 h1 hs => ?_⟩
  · rw [exec_init_failed (init_error (s := s.accept .init) (Bus.serves_last.1 hs) hc), exchangeEvents_error hc,
      ← (descriptorIsFieldOfCommandWord _ _ _ _ false).1]
    rfl
  · obtain ⟨hn, ha⟩ := Completion.answer_ok h0
    obtain ⟨m, hselect, hwake⟩ := Bus.serves_cons.1 hs
    rw [Completion.answer, hn, ha] at hselect
    rw [exec_init_failed (init_wake_error (s := s.accept .init) hselect (Bus.serves_last.1 hwake) h1),
      exchangeEvents_ok h0, exchangeEvents_error h1, ← (descriptorIsFieldOfCommandWord _ _ _ _ false).1,
      ← List.append_assoc]
    rfl

/-- RDAX whose operations are all answered: what its one read leaves, then the outcome and the end (R142, R144). -/
theorem exec_rdax_answered {s : State} {i : Axis} {reg : Byte} {o : AxisAnswers} {b : Bus}
    (h : s.bus.Serves (asAnswers (o.exchange s.params.slaveAddr reg)) b) :
    exec (.rdax i.number reg) s =
      .next ((afterAxis (s.accept .rdax) i reg o b).setFail (o.verdict = .fail)).finish := by
  refine exec_of_returns ?_
  rw [program_rdax_number]
  exact progDriver_returns (rdAx_serves i reg o (s.accept .rdax) b h)

/-- Settles O32: a read with no sample leaves the frame and marks its axis. -/
theorem failedRdaxKeepsTheOldSample : Obligations.FailedRdaxKeepsTheOldSample := by
  intro s i reg o b ho hs
  have failed : o.verdict = .fail := by rw [AxisAnswers.verdict, ho]
  rw [exec_rdax_answered hs, failed, afterAxis, ho]
  rfl

end Sys2Proof.Machine
end

section
/-! INIT, RDAX and RUN when every byte operation succeeds (R35, R140 to R144, R167), and the driver's commands and
CDSEQ's own step, which never raise SequenceError (R148). -/

namespace Sys2Proof.Machine

/-! ### Every operation succeeds (R141, R144, R167) -/

/-- The state `Init` leaves when both its operations complete without error (R141). -/
def afterInit (s : State) (c0 c1 : Byte) (b : Bus) : State :=
  { s with
    dr := s.params.wakeVal
    xd := (encode (.wrb s.params.slaveAddr s.params.wakeVal false true)).extractLsb' 8 20
    status := { s.status with xbusy := false, err := false, nack := false, arblst := false, held := false
                              hdir := .write, initok := true }
    seq := { s.seq with step := .op1, phase := .idle }
    events := s.events ++ [.busReq (powerReq s.params), .busResp false false c0,
                           .busReq (wakeReq s.params), .busResp false false c1]
    bus := b }

theorem init_serves {s : State} {c0 c1 : Byte} {b : Bus}
    (h : s.bus.Serves [(powerReq s.params, .complete false false c0), (wakeReq s.params, .complete false false c1)] b) :
    init.run s = .ret .ok (afterInit s c0 c1 b) := by
  obtain ⟨b₁, hpower, hwake⟩ := Bus.serves_cons.1 h
  rw [init_wake_ok hpower (Bus.serves_last.1 hwake), afterInit, ← (descriptorIsFieldOfCommandWord _ _ _ _ false).1]
  simp [initSelected, afterOk, initStart, markInitOk, State.setStep, powerReq, wakeReq, BusReq.of]

/-- Settles O29: what `Init` leaves, then `FAIL` <- 0 and the end. -/
theorem initWakesTheSensor : Obligations.InitWakesTheSensor := fun s _ _ _ h =>
  exec_of_returns (progDriver_returns (init_serves (s := s.accept .init) h))

/-- Settles O31: what the one read leaves when it has a sample, then `FAIL` <- 0 and the end. -/
theorem rdaxLoadsTheSample : Obligations.RdaxLoadsTheSample := by
  intro s i reg c hi lo b h
  rw [exec_rdax_ok h, ← (descriptorIsFieldOfCommandWord _ 0 _ _ _).2]
  rfl

/-- RUN once `Init` has succeeded in state `t`: it stands at the entry of its loop (R167). -/
theorem exec_run_of_init {s t : State} (h : init.run (s.accept .run) = .ret .ok t) :
    exec .run s = .next (t.setFail false) := by
  refine exec_of_returns ?_
  show progRun.run s = _
  rw [progRun, Prog.run_act, Prog.run_bind, h]
  rfl

/-- Settles O50: what `Init` leaves, accepted as RUN, then `FAIL` <- 0 and no end. -/
theorem runEntersTheLoopAfterInit : Obligations.RunEntersTheLoopAfterInit := fun s _ _ _ _ h =>
  exec_run_of_init (init_serves (s := s.accept .run) h)

/-! ### `SEQF` (R121, R148) -/

/-- `Cycle()` keeps `SEQF`: its reads do, and the stages after them write no flag (R161). -/
theorem cycle_seqf (s : State) : (cycle.run s).final.status.seqf = s.status.seqf := by
  have h := cycle_post (readAxes_frame Axis.all s (.inl (List.cons_ne_nil _ _)))
  cases hr : cycle.run s with
  | ret v t =>
    rw [hr] at h
    obtain ⟨u, ⟨work, -⟩, hu⟩ := h
    rw [afterReads_run] at hu
    cases hu
    exact work.seqf
  | never t =>
    rw [hr] at h
    obtain ⟨work, -⟩ := h
    exact work.seqf

theorem progCycle_seqf (s : State) : (progCycle.run s).final.status.seqf = s.status.seqf :=
  Prog.final_bind (s := s.accept .cycle) (Q := fun t => t.status.seqf = s.status.seqf)
    (Proc.post_of_final (cycle_seqf _)) (fun _ _ h => h) (fun _ h => h)

/-- What follows a failed `Init` in RUN writes `FAIL`, `HALT` and the history only (R168). -/
theorem runInitFailed_seqf (s : State) : (runInitFailed.run s).final.status.seqf = s.status.seqf := by
  rw [runInitFailed_run]
  rfl

theorem progRun_seqf (s : State) : (progRun.run s).final.status.seqf = s.status.seqf := by
  refine Prog.final_bind (s := s.accept .run) (Q := fun t => t.status.seqf = s.status.seqf) (init_frame _)
    (fun r t ⟨work, _⟩ => ?_) (fun t ⟨work, _⟩ => work.seqf)
  cases r with
  | ok => exact work.seqf
  | fail => exact (runInitFailed_seqf t).trans work.seqf

/-- CDSEQ's own step is one cycle of RUN's loop, or nothing (R34, R167). -/
theorem ownStep_seqf (s : State) : (ownStep s).status.seqf = s.status.seqf := by
  unfold ownStep State.ownWork
  split
  · exact cycle_seqf s
  · rfl

theorem step_of_no_host {s : State} (h : s.host = []) : step s = .next (ownStep s) := by
  simp [step, machineStep, h]

/-- Settles O34: every byte operation of a driver sequence carries a start or continues one of its own. -/
theorem driverSequencesNeverRaiseSequenceError : Obligations.DriverSequencesNeverRaiseSequenceError := by
  refine ⟨fun i s t hi h => ?_, fun s t hs h => ?_⟩
  · rw [exec_eq_program] at h
    cases h
    rcases hi with rfl | ⟨d, reg, rfl⟩ | rfl | rfl
    · exact progInit_seqf s
    · exact progRdax_seqf d reg s
    · exact progCycle_seqf s
    · exact progRun_seqf s
  · rw [step_of_no_host hs] at h
    cases h
    exact ownStep_seqf s

end Sys2Proof.Machine
end

section
/-! The decimal text of a value and the report line (R165, R166). -/

namespace Sys2Proof.Machine

/-! ### Digits (R166) -/

theorem toNat_digit {n : Nat} (h : n < 10) : (digit n).toNat = 0x30 + n := by
  have zero : '0'.toNat = 0x30 := rfl
  rw [digit, BitVec.toNat_ofNat, zero, Nat.mod_eq_of_lt (by omega)]

theorem digit_ne_zero {n : Nat} (h : n < 10) (hn : n ≠ 0) : digit n ≠ 0x30 := fun heq => by
  have code := congrArg BitVec.toNat heq
  rw [toNat_digit h] at code
  exact hn (Nat.add_eq_left.1 code)

/-- The byte is the code of a decimal digit. -/
def IsDigit (c : Byte) : Prop := 0x30 ≤ c.toNat ∧ c.toNat ≤ 0x39

theorem isDigit_digit {n : Nat} (h : n < 10) : IsDigit (digit n) := by
  rw [IsDigit, toNat_digit h]
  omega

theorem digits_of_lt (fuel : Nat) {n : Nat} (h : n < 10) : digits fuel n = [digit n] := by
  cases fuel with
  | zero => rw [digits, Nat.mod_eq_of_lt h]
  | succ fuel => rw [digits, if_pos h]

theorem digits_of_le (fuel : Nat) {n : Nat} (h : 10 ≤ n) :
    digits (fuel + 1) n = digits fuel (n / 10) ++ [digit (n % 10)] := by
  rw [digits, if_neg (by omega)]

theorem digits_ne_nil (fuel n : Nat) : digits fuel n ≠ [] := by
  cases fuel with
  | zero => exact List.cons_ne_nil _ _
  | succ fuel =>
    by_cases h : n < 10
    · rw [digits_of_lt _ h]
      exact List.cons_ne_nil _ _
    · rw [digits_of_le fuel (by omega)]
      exact List.append_ne_nil_of_right_ne_nil _ (List.cons_ne_nil _ _)

theorem digits_isDigit (fuel n : Nat) : ∀ c ∈ digits fuel n, IsDigit c := by
  induction fuel generalizing n with
  | zero =>
    intro c hc
    obtain rfl := List.mem_singleton.1 hc
    exact isDigit_digit (by omega)
  | succ fuel ih =>
    intro c hc
    by_cases h : n < 10
    · rw [digits_of_lt _ h] at hc
      obtain rfl := List.mem_singleton.1 hc
      exact isDigit_digit h
    · rw [digits_of_le fuel (by omega)] at hc
      rcases List.mem_append.1 hc with hc | hc
      · exact ih _ c hc
      · obtain rfl := List.mem_singleton.1 hc
        exact isDigit_digit (by omega)

/-- The number a text of decimal digits stands for, the first digit the most significant. -/
def textValue (l : List Byte) : Nat := l.foldl (fun acc c => 10 * acc + (c.toNat - 0x30)) 0

theorem textValue_singleton {n : Nat} (h : n < 10) : textValue [digit n] = n := by
  rw [textValue, List.foldl_cons, List.foldl_nil, toNat_digit h]
  omega

theorem textValue_append_digit (l : List Byte) {n : Nat} (h : n < 10) :
    textValue (l ++ [digit n]) = 10 * textValue l + n := by
  rw [textValue, List.foldl_append, List.foldl_cons, List.foldl_nil, toNat_digit h, Nat.add_sub_cancel_left]
  rfl

/-- Enough fuel for every digit: the text stands for the number. -/
theorem textValue_digits {fuel n : Nat} (h : n < 10 ^ (fuel + 1)) : textValue (digits fuel n) = n := by
  induction fuel generalizing n with
  | zero =>
    have small : n < 10 := by simpa using h
    rw [digits_of_lt _ small, textValue_singleton small]
  | succ fuel ih =>
    by_cases small : n < 10
    · rw [digits_of_lt _ small, textValue_singleton small]
    · have shorter : n / 10 < 10 ^ (fuel + 1) := by
        rw [Nat.pow_succ] at h
        omega
      rw [digits_of_le fuel (by omega), textValue_append_digit _ (by omega), ih shorter]
      omega

/-- Enough fuel for every digit: no text but that of 0 begins with the digit 0. -/
theorem head_digits_ne_zero {fuel n : Nat} (h : n < 10 ^ (fuel + 1)) (hn : n ≠ 0) :
    (digits fuel n).head? ≠ some 0x30 := by
  induction fuel generalizing n with
  | zero =>
    have small : n < 10 := by simpa using h
    rw [digits_of_lt _ small]
    simpa using digit_ne_zero small hn
  | succ fuel ih =>
    by_cases small : n < 10
    · rw [digits_of_lt _ small]
      simpa using digit_ne_zero small hn
    · have shorter : n / 10 < 10 ^ (fuel + 1) := by
        rw [Nat.pow_succ] at h
        omega
      rw [digits_of_le fuel (by omega), List.head?_append_of_ne_nil _ (digits_ne_nil _ _)]
      exact ih shorter (by omega)

theorem dec_of_nonneg {v : Int} (h : 0 ≤ v) : dec v = digits 4 v.natAbs := if_neg (by omega)

theorem dec_of_neg {v : Int} (h : v < 0) : dec v = 0x2D :: dec (-v) := by
  rw [dec, if_pos h, dec_of_nonneg (by omega), Int.natAbs_neg]
  rfl

/-- Settles O44: five digits are enough, and what `digits` gives for the magnitude is its base-10 text. -/
theorem decimalTextIsStandardBaseTen : Obligations.DecimalTextIsStandardBaseTen := by
  intro v hlo hhi
  have fits : v.natAbs < 10 ^ (4 + 1) := by omega
  have value : textValue (digits 4 v.natAbs) = v.natAbs := textValue_digits fits
  refine ⟨fun h => ?_, fun h => ?_⟩
  · rw [dec_of_nonneg h]
    refine ⟨digits_isDigit 4 _, ?_, digits_ne_nil 4 _, fun hzero => ?_⟩
    · exact (congrArg Int.ofNat value).trans (Int.natAbs_of_nonneg h)
    · by_cases hv : v.natAbs = 0
      · rw [hv]
        rfl
      · exact absurd hzero (head_digits_ne_zero fits hv)
  · refine ⟨dec_of_neg h, ?_⟩
    rw [dec_of_nonneg (v := -v) (by omega), Int.natAbs_neg]
    refine ⟨digits_isDigit 4 _, ?_, head_digits_ne_zero fits (by omega)⟩
    exact (congrArg Int.ofNat value).trans (Int.ofNat_natAbs_of_nonpos (by omega))

/-! ### The report line (R165) -/

/-- Settles O45: the fields of `reportLine` one after the other, each label spelled out in its codes. -/
theorem reportLineHasTheTwoFormats : Obligations.ReportLineHasTheTwoFormats := by
  intro f
  constructor <;>
    simp [reportLine, reportField, ascii]

end Sys2Proof.Machine
end

section
/-! Two cycles in a row (R171) and a step of RUN's loop as one cycle (R167). -/

namespace Sys2Proof.Machine

/-! ### Two cycles that receive the same bytes (R171) -/

/-- What a cycle hands over up to the end of its classification: its reads, then the blinks and the lamp (R161). -/
def cycleEvents (params : Params) (o : PerAxis AxisAnswers) (frame : PerAxis Sample) (prior : Triple Sample) :
    List Event :=
  exchangeEvents (cycleExchange params o)
    ++ classifyEvents params (impactFlags params frame.accel prior) (orientResult params frame.accel)

/-- The report and the delay at the end of a cycle (R162, R170). -/
def cycleClosing (params : Params) (frame : PerAxis Sample) : List Event :=
  [.report (reportLine params.reportSet frame), .delay params.cycleDelay]

/-- What CYCLE leaves when no read of its six fails: a new sample on every axis, and the classification, the report and
the delay that follow from the frame and the prior frame before (R161, R162). -/
structure CycleReadsAll (s t : State) (o : PerAxis AxisAnswers) (b : Bus) : Prop where
  params : t.params = s.params
  bus : t.bus = b
  frame : ∀ i, (o.get i).sample = some (t.f.get i)
  prior : t.p = t.f.accel
  cls : t.cls = { orient := orientResult s.params t.f.accel
                  impact := impactFlags s.params t.f.accel s.p
                  lamp := (orientResult s.params t.f.accel).lamp }
  events : t.events = s.events ++ cycleEvents s.params o t.f s.p ++ cycleClosing s.params t.f

theorem exec_cycle_readsAll {s t : State} {o : PerAxis AxisAnswers} {b : Bus} (ho : ∀ i, (o.get i).sample ≠ none)
    (hb : s.bus.Serves (asAnswers (cycleExchange s.params o)) b) (h : exec .cycle s = .next t) :
    CycleReadsAll s t o b := by
  obtain ⟨t', ht', frame, -, -, prior, cls, -, history, rest, -⟩ :=
    cycleReadsClassifiesReportsAndDelays s o b hb
  obtain rfl : t' = t := Host.Outcome.next.inj (ht'.symm.trans h)
  refine ⟨(congrArg State.params rest :), (congrArg State.bus rest :), fun i => ?_, prior, cls, ?_⟩
  · obtain ⟨v, hv⟩ := Option.ne_none_iff_exists'.1 (ho i)
    rw [frame, hv]
    rfl
  · rw [history, cycleEvents, cycleClosing, List.append_assoc s.events]

/-- The same answers give the same frame, whatever was there before. -/
theorem CycleReadsAll.frame_unique {s t s' t' : State} {o : PerAxis AxisAnswers} {b b' : Bus}
    (h : CycleReadsAll s t o b) (h' : CycleReadsAll s' t' o b') : t'.f = t.f :=
  PerAxis.ext_get fun i => Option.some.inj ((h'.frame i).symm.trans (h.frame i))

/-- Without DELTA no impact flag looks at the prior frame (R186, R187). -/
theorem impactFlags_prior {params : Params} (h : params.policy ≠ .delta) (a prior prior' : Triple Sample) :
    impactFlags params a prior = impactFlags params a prior' := by
  unfold impactFlags impactHit
  cases hp : params.policy with
  | none => rfl
  | abs => rfl
  | delta => exact absurd hp h

/-- Under DELTA a frame equal to the prior frame raises none: no difference is above the threshold (R188). -/
theorem impactFlags_self {params : Params} (h : params.policy = .delta) (a : Triple Sample) :
    impactFlags params a a = ⟨false, false, false⟩ := by
  simp [impactFlags, impactHit, deltaMagnitude, h]

/-- Settles O49: the second cycle finds in `P` the frame it reads again, and only DELTA looks at `P`. -/
theorem repeatedCycleIsIdempotent : Obligations.RepeatedCycleIsIdempotent := by
  intro s t u o b b' ho hb hb' ht hu
  have first := exec_cycle_readsAll ho hb ht
  rw [← first.bus, ← first.params] at hb'
  have second := exec_cycle_readsAll ho hb' hu
  have frame : u.f = t.f := first.frame_unique second
  have cls := second.cls
  have events := second.events
  rw [frame, first.params] at cls events
  refine ⟨frame, ⟨_, _, _, first.events, events⟩, fun hp => ⟨?_, ?_⟩, fun hp => ⟨?_, ?_⟩⟩
  · rw [cls, first.cls, impactFlags_prior hp t.f.accel t.p s.p]
  · refine ⟨cycleEvents s.params o t.f s.p ++ cycleClosing s.params t.f, ?_, ?_⟩
    · rw [first.events, List.append_assoc]
    · rw [events, cycleEvents, impactFlags_prior hp t.f.accel t.p s.p, List.append_assoc]
      rfl
  · rw [cls, first.prior]
    exact impactFlags_self hp _
  · rw [cls, first.cls]

/-! ### The host's pending actions are no concern of a cycle (R36) -/

/-- The program ends in the state `g` changes as it does in the state before the change, but for that change. -/
def Prog.Unaffected {α : Type} (g : State → State) (p : Prog α) : Prop := ∀ s, p.run (g s) = (p.run s).map g

section
variable {α β : Type} {g : State → State}

theorem Prog.Unaffected.ret (a : α) : (Prog.ret a).Unaffected g := fun _ => rfl

theorem Prog.Unaffected.act {f : State → State} {p : Prog α} (hf : ∀ s, f (g s) = g (f s)) (hp : p.Unaffected g) :
    (Prog.act f p).Unaffected g := fun s => by
  rw [Prog.run_act, hf]
  exact hp (f s)

theorem Prog.Unaffected.look {p : State → Prog α} (hl : ∀ s, p (g s) = p s) (hp : ∀ s, (p s).Unaffected g) :
    (Prog.look p).Unaffected g := fun s => by
  rw [Prog.run_look, hl]
  exact hp s s

theorem Prog.Unaffected.bind {p : Prog α} {q : α → Prog β} (hp : p.Unaffected g) (hq : ∀ a, (q a).Unaffected g) :
    (p.bind q).Unaffected g := fun s => by
  rw [Prog.run_bind, Prog.run_bind, hp s]
  cases p.run s with
  | ret a t => exact hq a t
  | never t => rfl

end

/-- The state with other pending actions of the host. -/
def State.withActions (host : List HostAction) (s : State) : State := { s with host := host }

section
variable (host : List HostAction)

theorem xfer_unaffected (sa : SlaveAddr) (dir : Dir) (data : Byte) (start stop ack : Bool) :
    (xfer sa dir data start stop ack).Unaffected (State.withActions host) := by
  intro s
  rcases xfer_cases sa dir data start stop ack s with
    ⟨hm, hx⟩ | ⟨hm, b, ha, hx⟩ | ⟨hm, nack, arb, rdata, b, he, ha, hx⟩ | ⟨hm, rdata, b, ha, hx⟩ <;> rw [hx]
  · exact xfer_refused (s := s.withActions host) hm sa data stop ack
  · exact xfer_never hm ha
  · exact xfer_error hm ha he
  · exact xfer_ok hm ha

/-- One operation of `RdAx`: its index, the transfer, and what follows by its outcome. -/
theorem rdAxOperation_unaffected {d : Axis} {k : OpIndex} {dir : Dir} {data : Byte} {start stop ack : Bool}
    {next : Byte → Prog Verdict} (hn : ∀ c, (next c).Unaffected (State.withActions host)) :
    (Prog.act (·.setStep k) <| .look fun s =>
      (xfer s.params.slaveAddr dir data start stop ack).bind fun r =>
      match r with
      | .fail => rdAxFailed d
      | .ok c => next c).Unaffected (State.withActions host) := by
  refine .act (fun _ => rfl) <| .look (fun _ => rfl) fun s => (xfer_unaffected host _ _ _ _ _ _).bind fun r => ?_
  cases r with
  | fail => exact .act (fun _ => rfl) <| .ret _
  | ok c => exact hn c

theorem rdAx_unaffected (d : Axis) (reg : Byte) : (rdAx d reg).Unaffected (State.withActions host) :=
  rdAxOperation_unaffected host fun _ => rdAxOperation_unaffected host fun _ => rdAxOperation_unaffected host fun _ =>
    .act (fun _ => rfl) <| .act (fun _ => rfl) <| .ret _

theorem readAxes_unaffected (l : List Axis) : (readAxes l).Unaffected (State.withActions host) := by
  induction l with
  | nil => exact .ret _
  | cons i rest ih =>
    exact .act (fun _ => rfl) <| .look (fun _ => rfl) fun s => (rdAx_unaffected host i _).bind fun _ => ih

theorem afterReads_unaffected : afterReads.Unaffected (State.withActions host) := fun s => by
  rw [afterReads_run, afterReads_run]
  rfl

theorem cycle_unaffected : cycle.Unaffected (State.withActions host) :=
  (readAxes_unaffected host _).bind fun _ => afterReads_unaffected host

end

/-! ### A step of RUN's loop (R167) -/

/-- A step in which the host does nothing: its action, if there is one, is taken off the list (R34). -/
theorem step_of_host_idle {s : State} (h : s.host = [] ∨ ∃ rest, s.host = .wait :: rest) :
    step s = .next (ownStep (s.withActions s.host.tail)) := by
  obtain ⟨f, p, dr, xd, status, cls, seq, events, params, bus, host, portOut⟩ := s
  rcases h with rfl | ⟨rest, rfl⟩ <;> rfl

/-- In RUN's loop that step is one cycle. -/
theorem step_of_looping {s : State} (hl : s.Looping) (h : s.host = [] ∨ ∃ rest, s.host = .wait :: rest) :
    step s = .next ((cycle.run s).final.withActions s.host.tail) := by
  have work : (s.withActions s.host.tail).ownWork = cycle := by
    have inLoop : (s.withActions s.host.tail).inLoop = true := hl.inLoop
    rw [State.ownWork, if_pos inLoop]
  rw [step_of_host_idle h, ownStep, work, cycle_unaffected, Proc.map_final]

/-- CYCLE from the loop: the same cycle under another `TOP`, then `FAIL` and the end when the cycle returns (R160). -/
theorem exec_cycle_of_busy {s : State} (hb : s.status.busy = true) :
    exec .cycle s = .next (((cycle.run s).map fun u => u.withTop .cycle).andThen fun _ u =>
      .ret () (u.setFail u.status.degraded).finish).final := by
  have accepted : s.accept .cycle = s.withTop .cycle := by
    unfold State.accept State.withTop
    rw [← hb]
  rw [exec_eq_program]
  show Host.Outcome.next (progCycle.run s).final = _
  rw [progCycle, Prog.run_act, Prog.run_seq, accepted, cycle_withTop]
  rfl

/-- A cycle that returned leaves no byte operation outstanding and has written none of `BUSY`, `FAIL` and `TOP` (R161). -/
theorem cycle_returned {s u : State} (h : cycle.run s = .ret () u) :
    u.status.xbusy = false ∧ u.status.busy = s.status.busy ∧ u.status.fail = s.status.fail ∧ u.seq.top = s.seq.top := by
  have post := cycle_post (readAxes_frame Axis.all s (.inl (List.cons_ne_nil _ _)))
  rw [h] at post
  obtain ⟨v, ⟨work, rest, -⟩, hv⟩ := post
  rw [afterReads_run] at hv
  cases hv
  exact ⟨rest.xbusy, work.busy, work.fail, work.top⟩

/-- Settles O52: the step and CYCLE run the same cycle; they differ in `TOP`, and in the end only CYCLE has. -/
theorem loopStepIsOneCycle : Obligations.LoopStepIsOneCycle := by
  intro s t hl hhost ht
  have hstep := step_of_looping hl hhost
  obtain ⟨busy, -, -, top, -⟩ := hl
  rw [exec_cycle_of_busy busy] at ht
  cases hr : cycle.run s with
  | ret x u =>
    obtain ⟨uxbusy, ubusy, ufail, utop⟩ := cycle_returned hr
    rw [hr] at hstep ht
    cases ht
    refine ⟨fun _ => ?_, fun hx => (nomatch uxbusy.symm.trans hx)⟩
    rw [hstep, ← busy, ← ubusy, ← ufail, ← top, ← utop]
    rfl
  | never u =>
    obtain ⟨work, wait, -⟩ := cycle_hang hr
    rw [hr] at hstep ht
    cases ht
    refine ⟨fun hx => (nomatch wait.xbusy.symm.trans hx), fun _ => ?_⟩
    rw [hstep, ← top, ← work.top]
    rfl

end Sys2Proof.Machine
end

section
/-! The classifier (43_classifier.md): what CLSFY leaves in every state, the axis that dominates, the impact flags of
each policy, and the events. -/

namespace Sys2Proof.Machine

/-! ### CLSFY in every state -/

/-- Settles O37: what `Classify()` leaves, then `FAIL` <- 0 and the end. -/
theorem clsfyClassifiesTheFrame : Obligations.ClsfyClassifiesTheFrame := by
  intro s
  rw [exec_eq_program]
  show Host.Outcome.next (progClsfy.run s).final = _
  rw [progClsfy, Prog.run_act, Prog.run_seq, classify_run]
  rfl

/-- The part of it the classifier's other statements are about. -/
theorem exec_clsfy_leaves {s t : State} (h : exec .clsfy s = .next t) :
    t.cls = { orient := orientResult s.params s.f.accel
              impact := impactFlags s.params s.f.accel s.p
              lamp := (orientResult s.params s.f.accel).lamp } ∧
      t.p = s.f.accel ∧
      t.events = s.events ++
        classifyEvents s.params (impactFlags s.params s.f.accel s.p) (orientResult s.params s.f.accel) := by
  cases (clsfyClassifiesTheFrame s).symm.trans h
  exact ⟨rfl, rfl, rfl⟩

/-! ### The dominant axis (R184, R185) -/

/-- The condition of one axis (R184): it is in the band, and the two others are below it. -/
def dominant (params : Params) (a : Triple Sample) (i : Accel) : Bool :=
  inBand params (a.get i) && Accel.all.all fun j => j == i || belowBand params (a.get j)

/-- The orientation in which the axis is dominant. -/
def Accel.orient : Accel → Orient
  | .x => .axisX
  | .y => .axisY
  | .z => .axisZ

section
variable {params : Params} {a : Triple Sample} {i j : Accel}

/-- The model's three tests are the conditions of X, Y, Z. -/
theorem orientation_eq_tests (params : Params) (a : Triple Sample) :
    orientation params a =
      if dominant params a .x then Accel.orient .x
      else if dominant params a .y then Accel.orient .y
      else if dominant params a .z then Accel.orient .z
      else .noDominant := by
  simp [orientation, dominant, Accel.all, Accel.orient, Triple.get, Bool.and_assoc]

theorem inBand_iff {v : Sample} : inBand params v = true ↔
    params.bandLo.toNat ≤ v.toInt.natAbs ∧ v.toInt.natAbs ≤ params.bandHi.toNat :=
  Bool.and_eq_true_iff.trans (and_congr decide_eq_true_iff decide_eq_true_iff)

theorem belowBand_iff {v : Sample} : belowBand params v = true ↔ v.toInt.natAbs < params.bandLo.toNat :=
  decide_eq_true_iff

/-- The condition of each axis as R184 writes it. -/
theorem dominant_iff (params : Params) (a : Triple Sample) :
    (dominant params a .x = true ↔
      inBand params a.x = true ∧ belowBand params a.y = true ∧ belowBand params a.z = true) ∧
    (dominant params a .y = true ↔
      inBand params a.y = true ∧ belowBand params a.x = true ∧ belowBand params a.z = true) ∧
    (dominant params a .z = true ↔
      inBand params a.z = true ∧ belowBand params a.x = true ∧ belowBand params a.y = true) := by
  simp [dominant, Accel.all, Triple.get]

theorem not_belowBand_of_inBand {v : Sample} (h : inBand params v = true) : ¬ belowBand params v = true :=
  fun low => absurd (belowBand_iff.mp low) (Nat.not_lt.mpr (inBand_iff.mp h).1)

theorem belowBand_of_dominant (h : dominant params a i = true) (hj : j ≠ i) : belowBand params (a.get j) = true := by
  obtain ⟨-, others⟩ := Bool.and_eq_true_iff.mp h
  have listed : j ∈ Accel.all := by cases j <;> decide
  simpa [hj] using List.all_eq_true.mp others j listed

/-- At most one axis is dominant: it is in the band, and every other is below it. -/
theorem dominant_unique (hi : dominant params a i = true) (hj : dominant params a j = true) : i = j := by
  by_contra hne
  obtain ⟨inside, -⟩ := Bool.and_eq_true_iff.mp hi
  exact not_belowBand_of_inBand inside (belowBand_of_dominant hj hne)

theorem Accel.forall_iff {p : Accel → Prop} : (∀ i, p i) ↔ p .x ∧ p .y ∧ p .z :=
  ⟨fun h => ⟨h .x, h .y, h .z⟩, fun ⟨hx, hy, hz⟩ i => match i with | .x => hx | .y => hy | .z => hz⟩

/-- All the orientation can be: an axis is dominant, or none is and the orientation says so. -/
theorem orientation_cases (params : Params) (a : Triple Sample) :
    (∃ i, dominant params a i = true ∧ orientation params a = i.orient) ∨
      ((∀ i, ¬ dominant params a i = true) ∧ orientation params a = .noDominant) := by
  rw [orientation_eq_tests]
  cases hx : dominant params a .x with
  | true => exact .inl ⟨.x, hx, rfl⟩
  | false =>
    cases hy : dominant params a .y with
    | true => exact .inl ⟨.y, hy, rfl⟩
    | false =>
      cases hz : dominant params a .z with
      | true => exact .inl ⟨.z, hz, rfl⟩
      | false => exact .inr ⟨by simp [Accel.forall_iff, hx, hy, hz], rfl⟩

theorem orientation_of_dominant (h : dominant params a i = true) : orientation params a = i.orient := by
  rcases orientation_cases params a with ⟨k, hk, ho⟩ | ⟨none, -⟩
  · rw [ho, dominant_unique hk h]
  · exact absurd h (none i)

theorem Accel.orient_injective (h : i.orient = j.orient) : i = j := by
  revert h; cases i <;> cases j <;> decide

theorem Accel.orient_ne_noDominant (i : Accel) : i.orient ≠ .noDominant := by cases i <;> decide

theorem orientation_eq_orient_iff : orientation params a = i.orient ↔ dominant params a i = true := by
  refine ⟨fun h => ?_, orientation_of_dominant⟩
  rcases orientation_cases params a with ⟨k, hk, ho⟩ | ⟨-, ho⟩
  · rwa [← Accel.orient_injective (ho.symm.trans h)]
  · exact absurd (h.symm.trans ho) i.orient_ne_noDominant

theorem orientation_eq_noDominant_iff :
    orientation params a = .noDominant ↔ ∀ i, ¬ dominant params a i = true := by
  refine ⟨fun h i hi => i.orient_ne_noDominant ((orientation_of_dominant hi).symm.trans h), fun h => ?_⟩
  rcases orientation_cases params a with ⟨k, hk, -⟩ | ⟨-, ho⟩
  · exact absurd hk (h k)
  · exact ho

end

/-- Settles O39: the test that succeeds is that of the dominant axis, whichever comes first. -/
theorem orderOfTestsCannotBeObserved : Obligations.OrderOfTestsCannotBeObserved := by
  intro params a
  refine ⟨fun i j => dominant_unique, fun order all => ?_⟩
  show orientation params a = match order.find? (dominant params a) with
    | some .x => .axisX | some .y => .axisY | some .z => .axisZ | none => .noDominant
  cases found : order.find? (dominant params a) with
  | none => exact orientation_eq_noDominant_iff.mpr fun i => List.find?_eq_none.mp found i (all i)
  | some i =>
    rw [orientation_of_dominant (List.find?_some found)]
    cases i <;> rfl

/-- Settles O38: `dominant` is the condition of each axis, and the lamp is written and emitted after the blinking. -/
theorem orientationIsTheDominantAxis : Obligations.OrientationIsTheDominantAxis := by
  intro s t h
  obtain ⟨cls, -, events⟩ := exec_clsfy_leaves h
  refine ⟨fun on => ?_, fun off => ?_⟩
  · have result : t.cls.orient = orientation s.params s.f.accel := by rw [cls, orientResult, if_pos on]
    have lamp : t.cls.lamp = t.cls.orient.lamp := by rw [cls]
    obtain ⟨hx, hy, hz⟩ := dominant_iff s.params s.f.accel
    simp only [inBand_iff, belowBand_iff] at hx hy hz
    rw [result]
    refine ⟨(orientation_eq_orient_iff (i := .x)).trans hx, (orientation_eq_orient_iff (i := .y)).trans hy,
      (orientation_eq_orient_iff (i := .z)).trans hz, ?_, ?_, ?_⟩
    · exact (orientation_eq_noDominant_iff.trans Accel.forall_iff).trans
        (and_congr hx.not (and_congr hy.not hz.not))
    · rw [lamp, result]
      cases orientation s.params s.f.accel <;> rfl
    · rw [events, cls, classifyEvents, if_pos on, ← List.append_assoc]
      exact ⟨_, rfl⟩
  · have idle : orientResult s.params s.f.accel = .idle := by simp [orientResult, off]
    simp [cls, idle, events, classifyEvents, off]

/-! ### The impact flags (R186 to R188, R193) -/

theorem impactHit_abs {params : Params} (h : params.policy = .abs) (v prior : Sample) :
    impactHit params v prior = true ↔ v.toInt.natAbs > params.impactThr.toNat := by
  simp [impactHit, h, magnitude]

theorem impactHit_delta {params : Params} (h : params.policy = .delta) (v prior : Sample) :
    impactHit params v prior = true ↔ (v.toInt - prior.toInt).natAbs > params.deltaThr.toNat := by
  simp [impactHit, h, deltaMagnitude]

/-- Settles O40: the flag is the comparison, strict on both sides of the example's threshold. -/
theorem absolutePolicyFlagsLargeMagnitudes : Obligations.AbsolutePolicyFlagsLargeMagnitudes := by
  refine ⟨fun s t hp h => ?_, fun params prior hp thr => ?_⟩
  · obtain ⟨cls, -, -⟩ := exec_clsfy_leaves h
    rw [cls]
    exact ⟨impactHit_abs hp _ _, impactHit_abs hp _ _, impactHit_abs hp _ _⟩
  · rw [← Bool.not_eq_true, impactHit_abs hp, impactHit_abs hp, thr]
    decide

/-- Two samples of 16 bits differ by at most 65535 (R188, R194). -/
theorem deltaMagnitude_le (v prior : Sample) : deltaMagnitude v prior ≤ 65535 := by
  unfold deltaMagnitude
  have := v.le_toInt
  have := v.toInt_lt
  have := prior.le_toInt
  have := prior.toInt_lt
  omega

/-- Settles O41: the flag is the comparison, and no difference exceeds the largest threshold. -/
theorem deltaPolicyFlagsLargeChanges : Obligations.DeltaPolicyFlagsLargeChanges := by
  intro s t hp h
  obtain ⟨cls, prior, -⟩ := exec_clsfy_leaves h
  rw [cls]
  refine ⟨impactHit_delta hp _ _, impactHit_delta hp _ _, impactHit_delta hp _ _, fun thr => ?_, prior⟩
  have never : ∀ v prior : Sample, impactHit s.params v prior = false := fun v prior => by
    rw [← Bool.not_eq_true, impactHit_delta hp, thr]
    exact Nat.not_lt.mpr (deltaMagnitude_le v prior)
  simp only [impactFlags, never]

/-- Settles O42: all a classification reads is the parameters, the accelerometer triple and, for the flags, `P`. -/
theorem classificationIgnoresGyroscopeAndMemory : Obligations.ClassificationIgnoresGyroscopeAndMemory := by
  intro s s' t t' params hx hy hz h h'
  obtain ⟨cls, prior, -⟩ := exec_clsfy_leaves h
  obtain ⟨cls', prior', -⟩ := exec_clsfy_leaves h'
  have accel : s.f.accel = s'.f.accel := by simp only [PerAxis.accel, hx, hy, hz]
  rw [cls, cls', prior, prior', ← params, ← accel]
  refine ⟨rfl, rfl, rfl, fun unread => ?_⟩
  rcases unread with policy | same
  · exact impactFlags_prior policy _ _ _
  · rw [same]

/-! ### The events (R190, R253) -/

/-- A blink delays twice (R190). -/
theorem countP_blinkEvents (code : Lamp) (token : Token) (n : Nat) :
    (blinkEvents code token n).countP (fun e => e == .delay token) = 2 * n := by
  induction n with
  | zero => rfl
  | succ n ih =>
    have once : [Event.lamp code, .delay token, .lamp .off, .delay token].countP (fun e => e == .delay token) = 2 := by
      simp
    rw [blinkEvents_succ, List.countP_append, once, ih]
    omega

/-- The blink sequence of an axis delays as often when the axis is flagged, and not at all when it is not. -/
theorem countP_blinkEvents_if (hit : Bool) (code : Lamp) (token : Token) (n : Nat) :
    (if hit then blinkEvents code token n else []).countP (fun e => e == .delay token) = 2 * n * hit.toNat := by
  cases hit with
  | true => simpa using countP_blinkEvents code token n
  | false => rfl

theorem countP_classifyEvents (params : Params) (hits : Triple Bool) (o : Orient) :
    (classifyEvents params hits o).countP (fun e => e == .delay params.blinkDelay) =
      2 * params.blinkCount.toNat * (hits.x.toNat + hits.y.toNat + hits.z.toNat) := by
  have steady : (if params.orientEn then [Event.lamp o.lamp] else []).countP
      (fun e => e == .delay params.blinkDelay) = 0 := by
    split <;> rfl
  simp only [classifyEvents, List.countP_append, countP_blinkEvents_if, steady, Nat.mul_add, Nat.add_zero]

theorem mem_blinkEvents {code : Lamp} {token : Token} {n : Nat} {e : Event} (h : e ∈ blinkEvents code token n) :
    (∃ code, e = .lamp code) ∨ e = .delay token := by
  obtain ⟨once, listed, he⟩ := List.mem_flatten.mp h
  rw [List.eq_of_mem_replicate listed] at he
  simp only [List.mem_cons, List.not_mem_nil, or_false] at he
  rcases he with he | he | he | he
  · exact .inl ⟨code, he⟩
  · exact .inr he
  · exact .inl ⟨.off, he⟩
  · exact .inr he

theorem mem_classifyEvents {params : Params} {hits : Triple Bool} {o : Orient} {e : Event}
    (h : e ∈ classifyEvents params hits o) : (∃ code, e = .lamp code) ∨ e = .delay params.blinkDelay := by
  simp only [classifyEvents, List.mem_append, List.mem_ite_nil_right, List.mem_singleton] at h
  rcases h with ((⟨-, hx⟩ | ⟨-, hy⟩) | ⟨-, hz⟩) | ⟨-, steady⟩
  · exact mem_blinkEvents hx
  · exact mem_blinkEvents hy
  · exact mem_blinkEvents hz
  · exact .inl ⟨o.lamp, steady⟩

/-- Settles O43: only the blink sequences of the flagged axes delay. -/
theorem blinkingDelaysTwiceTheCountPerAxis : Obligations.BlinkingDelaysTwiceTheCountPerAxis := by
  intro s t h
  obtain ⟨cls, -, events⟩ := exec_clsfy_leaves h
  rw [cls]
  exact ⟨_, events, countP_classifyEvents _ _ _, fun _ => mem_classifyEvents⟩

end Sys2Proof.Machine
end

section
/-! Every step has a next state (R210, R221, log entries 6 and 18): the abnormal conditions, the hang and the halt among
them, are states, never a fault or a refusal. -/

namespace Sys2Proof.Machine

/-- Whatever the host does, in whatever state it finds (R36). -/
theorem hostStep_answers (act : HostAction) (s : State) : ∃ t, hostStep act s = .next t := by
  cases act with
  | reset => exact ⟨_, rfl⟩
  | read n => exact ⟨_, rfl⟩
  | wait => exact ⟨_, rfl⟩
  | during word acts => exact ⟨_, rfl⟩
  | write n w =>
    by_cases command : n = 0
    · subst command
      rw [hostStep_command]
      exact ⟨_, present_eq_work w s⟩
    · exact ⟨_, hostStep_write command w s⟩

/-- A step is CDSEQ's own while no host action is pending (R34), else the first pending action. -/
theorem step_answers (s : State) : ∃ t, step s = .next t := by
  unfold step machineStep
  cases s.host with
  | nil => exact ⟨_, rfl⟩
  | cons act rest => exact hostStep_answers act _

/-- Settles O6: a step is a host action or CDSEQ's own work, and a command is its program run to its end. -/
theorem everyStepAnswersNext : Obligations.EveryStepAnswersNext :=
  fun s => ⟨step_answers s, fun i => ⟨_, exec_eq_program i s⟩⟩

end Sys2Proof.Machine
end

section
/-! A pending reset and the state it leaves (R240 to R242). -/

namespace Sys2Proof.Machine

/-- A pending reset is the next step, in every state (R240), hung, halted and in RUN's loop among them. -/
theorem step_of_reset {s : State} {rest : List HostAction} (h : s.host = .reset :: rest) :
    step s = .next (State.resetWith s.params s.bus rest s.portOut) := by
  unfold step machineStep
  rw [h]
  rfl

/-- Settles O2: a pending reset answers the reset state, which is idle and is built on the environment it finds. -/
theorem resetLeavesIdleAndKeepsTheEnvironment : Obligations.ResetLeavesIdleAndKeepsTheEnvironment :=
  fun _ _ h => ⟨_, step_of_reset h, resetWith_idle _ _ _ _, rfl, rfl, rfl, rfl⟩

end Sys2Proof.Machine
end
